-- ==== Sys2Proof/Word.lean ====
section
/-! DEFINITION. The two datum widths of FCE (00_scope.md R11, R13): a byte and a 10-bit token. -/

namespace Sys2Proof

/-- A byte is 8 bits (R11): wire symbols, payload bytes, the checksum and its seed. -/
abbrev Byte := BitVec 8

/-- A token is 10 bits, a 2-bit kind above an 8-bit data field (R13, R66). -/
abbrev Token := BitVec 10

end Sys2Proof
end

