-- ==== Sys2Proof/Config.lean ====
section
/-! DEFINITION. The implementation parameters of 00_scope.md R5 to R12: the framing bytes and the reset
seed, which this hardware fixes, and the two queue depths, which the spec leaves OPEN. -/

namespace Sys2Proof.Config

/-- `DELIM`, the frame delimiter byte (R5). -/
def delim : Byte := 0xC0#8

/-- `ESC`, the escape byte (R6). -/
def esc : Byte := 0xDB#8

/-- `ESC_DELIM`, the second byte of the escape sequence that stands for `DELIM` (R7). -/
def escDelim : Byte := 0xDC#8

/-- `ESC_ESC`, the second byte of the escape sequence that stands for `ESC` (R8). -/
def escEsc : Byte := 0xDD#8

/-- The four framing bytes are pairwise distinct (R9), for any four values: what a model of other values takes
as its premise. -/
abbrev FramingBytesDistinct (delim esc escDelim escEsc : Byte) : Prop :=
  delim ≠ esc ∧ escDelim ≠ escEsc ∧ escDelim ≠ delim ∧ escDelim ≠ esc ∧ escEsc ≠ delim ∧ escEsc ≠ esc

/-- The values of R5 to R8 satisfy R9. -/
theorem framingBytes_distinct : FramingBytesDistinct delim esc escDelim escEsc := by decide

/-- `SEED_RESET`, what `ck_seed` holds after reset (R10). -/
def seedReset : Byte := 0xEF#8

/-- DESIGN CHOICE (log entry 2), safe: how far `TXQ_DEPTH` lies above its least value.  The spec leaves
the depth OPEN (R12, U5), so the number has no body and no proof can see it. -/
opaque txqExtra : Nat

/-- DESIGN CHOICE (log entry 2), safe: how far `RXQ_DEPTH` lies above its least value (R12, U6). -/
opaque rxqExtra : Nat

/-- `TXQ_DEPTH`: OPEN, at least 3 (R12). -/
def txqDepth : Nat := txqExtra + 3

/-- `RXQ_DEPTH`: OPEN, at least 1 (R12). -/
def rxqDepth : Nat := rxqExtra + 1

end Sys2Proof.Config
end

