-- ==== Sys2Proof/Syntax.lean ====
section
/-! DEFINITION. The instructions of FCE: one constructor per row of spec/opcode_table.json (30_encoding.md
R62, R67, R68, R69, R72), and the names those rows are indexed by (ports, formats, the states of ENC and
DEC). -/

namespace Sys2Proof

/-- The five data ports (10_state.md R30). -/
inductive Port where
  | txIn | txOut | rxIn | rxOut | ckIn
  deriving DecidableEq, Repr

/-- The three formats (R60): one wire byte, two wire bytes of which the first is `ESC`, one token. -/
inductive Format where
  | w8 | w16 | t10
  deriving DecidableEq, Repr

/-- `tx_state` (R22): no frame open on the wire side, or a frame opened and not closed. -/
inductive TxState where
  | idle | frame
  deriving DecidableEq, Repr

/-- `rx_state` (R24): outside any frame, inside one, after `ESC` inside one, inside one already reported bad. -/
inductive RxState where
  | idle | frame | esc | drop
  deriving DecidableEq, Repr

/-- One constructor per row of the opcode table.  The `rx_*` rows are the wire symbols DEC executes (R62);
the `tx*` rows the tokens ENC accepts (R67); the `ck*` rows the tokens CKS accepts (R68); the last four the
tokens DEC delivers on `rx_out` (R69).  `ignored` is a data field the operation does not look at (R70). -/
inductive Instr where
  /-- RX.OPEN (R101) -/
  | rxOpen
  /-- RX.JUNK (R102) -/
  | rxJunk (w : Byte)
  /-- RX.CLOSE (R103) -/
  | rxClose
  /-- RX.ESC (R104) -/
  | rxEsc
  /-- RX.LIT (R105) -/
  | rxLit (w : Byte)
  /-- RX.UNESC_DELIM (R106) -/
  | rxUnescDelim
  /-- RX.UNESC_ESC (R107) -/
  | rxUnescEsc
  /-- RX.TRUNC (R108) -/
  | rxTrunc
  /-- RX.BADESC (R109): `s` is the second byte of the pair -/
  | rxBadEsc (s : Byte)
  /-- RX.DROP_END (R110) -/
  | rxDropEnd
  /-- RX.DROP_SKIP (R111) -/
  | rxDropSkip (w : Byte)
  /-- TX.DATA (R81) -/
  | txData (b : Byte)
  /-- TX.EOF (R82) -/
  | txEof (ignored : Byte)
  /-- TX.RSVD1 (R83) -/
  | txRsvd1 (ignored : Byte)
  /-- TX.RSVD3 (R83) -/
  | txRsvd3 (ignored : Byte)
  /-- CK.DATA (R131) -/
  | ckData (b : Byte)
  /-- CK.INIT (R132) -/
  | ckInit (ignored : Byte)
  /-- CK.ZERO (R133) -/
  | ckZero (ignored : Byte)
  /-- CK.SEED (R134) -/
  | ckSeed (b : Byte)
  /-- DATA delivered on `rx_out` (R69, R112) -/
  | data (b : Byte)
  /-- EOF delivered on `rx_out` (R69, R112) -/
  | eof
  /-- ERR_TRUNC delivered on `rx_out` (R69, R112) -/
  | errTrunc
  /-- ERR_BADESC delivered on `rx_out` (R69, R112) -/
  | errBadEsc
  deriving DecidableEq, Repr

end Sys2Proof
end

