-- ==== Sys2Proof/Machine/State.lean ====
section
/-! DEFINITION. The state of FCE (10_state.md R34) as plain data, the environment record beside it, the
reasons a step can stop, and the state after reset (70_reset_and_hazards.md R170). -/

namespace Sys2Proof.Machine

/-- A first-in first-out queue: a finite sequence, oldest first, and its capacity (00_scope.md 5.2). -/
structure Queue (α : Type) where
  cap : Nat
  items : List α
  deriving DecidableEq, Repr

/-- The four status output pins (R29). -/
inductive Pin where
  | txStateO | rxStateO | ckOut | ckSeedO
  deriving DecidableEq, Repr

/-- What a sample of a status pin returns, at the pin's width (R29). -/
inductive PinValue where
  | txStateO (v : BitVec 1)
  | rxStateO (v : BitVec 2)
  | ckOut (v : Byte)
  | ckSeedO (v : Byte)
  deriving DecidableEq, Repr

/-- What the environment drives in one step (R14, R31): it is the turn of a port on which a sender offers or
a consumer shows ready, a status pin is sampled, or there is a rising clock edge with `rst == 1`.  `wire` is
the turn of a perfect wire from `tx_out` to the own `rx_in` (R118, program P3): both transfers at once; a
byte that `Env.rxIn` offers is not on the port in that turn (DESIGN CHOICE, log entry 13, safe).
The list of events is the MODEL'S OWN schedule (log entry 1). -/
inductive Event where
  | txIn | txOut | rxIn | rxOut | ckIn | wire
  | sample (p : Pin)
  | reset
  deriving DecidableEq, Repr

/-- One thing that happened at the boundary of FCE: a transfer on a port with its datum, a pin sample with its
value, a reset edge. -/
inductive Happening where
  | txIn (t : Token)
  | txOut (w : Byte)
  | rxIn (w : Byte)
  | rxOut (t : Token)
  | ckIn (t : Token)
  | sampled (v : PinValue)
  | reset
  deriving DecidableEq, Repr

/-- The environment, the MODEL'S OWN and no state of FCE (R33): what it will drive, and the record of what
happened.  DESIGN CHOICE (log entries 1, 3 and 4). -/
structure Env where
  /-- whose turn it is, earliest first (log entry 1) -/
  sched : List Event
  /-- tokens the host offers on `tx_in`, the head being on the port now (R31, log entry 3) -/
  txIn : List Token
  /-- bytes the wire offers on `rx_in` (R31, log entry 3) -/
  rxIn : List Byte
  /-- tokens the host offers on `ck_in` (R31, log entry 3) -/
  ckIn : List Token
  /-- everything that happened, oldest first; nothing reads it (log entry 4) -/
  log : List Happening
  deriving DecidableEq, Repr

/-- The six items of R34, and the environment. -/
structure State where
  /-- `tx_state` (R22) -/
  txState : TxState
  /-- `tx_q`, capacity `TXQ_DEPTH` (R23) -/
  txQ : Queue Byte
  /-- `rx_state` (R24) -/
  rxState : RxState
  /-- `rx_q`, capacity `RXQ_DEPTH` (R25) -/
  rxQ : Queue Token
  /-- `ck_acc` (R26) -/
  ckAcc : Byte
  /-- `ck_seed` (R27) -/
  ckSeed : Byte
  /-- the environment, no state of FCE (R33) -/
  env : Env
  deriving DecidableEq, Repr

/-- FCE has no event that stops it (60_exceptions.md R153, R156; 70_reset_and_hazards.md R176): its two
exceptions are tokens on `rx_out`.  So there is no fault, and that none is ever raised holds by the type. -/
inductive Fault where
  deriving DecidableEq, Repr

/-- Why `exec` gives no meaning. -/
inductive Refusal where
  /-- Raised by an arm of `exec` whose instruction has no meaning yet; no arm does so.  Safe. -/
  | notModelled (mnemonic : String)
  /-- Raised by the meaning of a wire symbol or of a delivered token when the state says that the datum on
  the port is another row (R62: which symbol a byte is depends on `rx_state`; R112: the token delivered is the
  head of `rx_q`).  DEDUCED (log entry 6), safe: `step` asks only for the row that the datum is. -/
  | notThatSymbol
  deriving DecidableEq, Repr

/-- An environment that offers and drives nothing. -/
def Env.quiet : Env := ⟨[], [], [], [], []⟩

/-- The state after reset (R34, R170), for given queue depths. -/
def State.resetWith (txqDepth rxqDepth : Nat) : State where
  txState := .idle
  txQ := ⟨txqDepth, []⟩
  rxState := .idle
  rxQ := ⟨rxqDepth, []⟩
  ckAcc := 0x00#8
  ckSeed := Config.seedReset
  env := .quiet

/-- The machine right after reset (R34, R170, R171): every unit idle, both queues empty, at the OPEN depths of
R12 (log entry 2), and nothing driven yet. -/
def State.reset : State := State.resetWith Config.txqDepth Config.rxqDepth

end Sys2Proof.Machine
end

