-- ==== Sys2Proof/Machine/Flags.lean ====
section
/-! DEFINITION. FCE has no flags, condition codes or predicates (10_state.md R28): no operation writes one.
What it has in their place are signals computed from the state: the ready and valid conditions of the ports
(R30), the status pins (R29), and what all of them show during reset (70_reset_and_hazards.md R170). -/

namespace Sys2Proof.Machine

/-- `len(q)` (00_scope.md 5.2). -/
def Queue.len {α : Type} (q : Queue α) : Nat := q.items.length

/-- `free(q) = cap(q) - len(q)` (00_scope.md 5.2). -/
def Queue.free {α : Type} (q : Queue α) : Nat := q.cap - q.items.length

/-- `tx_in_ready = (free(tx_q) >= 3)`, whatever the token offered (R23, R30, R80). -/
def State.txInReady (s : State) : Bool := decide (3 ≤ s.txQ.free)

/-- `rx_in_ready = (free(rx_q) >= 1)`, whatever the byte offered (R25, R30, R100). -/
def State.rxInReady (s : State) : Bool := decide (1 ≤ s.rxQ.free)

/-- `ck_in_ready = 1` always (R30, R130). -/
def State.ckInReady (_ : State) : Bool := true

/-- `tx_out_valid = (len(tx_q) >= 1)` (R23, R30). -/
def State.txOutValid (s : State) : Bool := decide (1 ≤ s.txQ.len)

/-- `rx_out_valid = (len(rx_q) >= 1)` (R25, R30). -/
def State.rxOutValid (s : State) : Bool := decide (1 ≤ s.rxQ.len)

/-- The encoding of `tx_state` (R22). -/
def txStateCode : TxState → BitVec 1
  | .idle => 0b0#1
  | .frame => 0b1#1

/-- The encoding of `rx_state` (R24). -/
def rxStateCode : RxState → BitVec 2
  | .idle => 0b00#2
  | .frame => 0b01#2
  | .esc => 0b10#2
  | .drop => 0b11#2

/-- What a status pin shows: a copy of its register (R29). -/
def State.pinValue (s : State) : Pin → PinValue
  | .txStateO => .txStateO (txStateCode s.txState)
  | .rxStateO => .rxStateO (rxStateCode s.rxState)
  | .ckOut => .ckOut s.ckAcc
  | .ckSeedO => .ckSeedO s.ckSeed

/-- The handshake signals FCE drives (R30).  The payload outputs are the queue heads (R23, R25); while a queue
is empty the spec gives them no value and there is none here (DEDUCED, log entry 14, safe). -/
structure Outputs where
  txInReady : Bool
  txOutValid : Bool
  txOutData : Option Byte
  rxInReady : Bool
  rxOutValid : Bool
  rxOutTok : Option Token
  ckInReady : Bool
  deriving DecidableEq, Repr

/-- The handshake signals at an edge, for the level of `rst` there: while `rst == 1` every ready and valid
signal is 0 (R170). -/
def State.outputs (s : State) (rst : Bool) : Outputs where
  txInReady := !rst && s.txInReady
  txOutValid := !rst && s.txOutValid
  txOutData := s.txQ.items.head?
  rxInReady := !rst && s.rxInReady
  rxOutValid := !rst && s.rxOutValid
  rxOutTok := s.rxQ.items.head?
  ckInReady := !rst && s.ckInReady

/-- R116: the frame being received is incomplete, the source's "needs more input"; the host sees it on
`rx_state_o` as `0b01` or `0b10`. -/
def State.rxIncomplete (s : State) : Bool := s.rxState == .frame || s.rxState == .esc

end Sys2Proof.Machine
end

