-- ==== Sys2Proof/WellFormed.lean ====
section
/-! DEFINITION. Which operands a row's instruction may have (30_encoding.md R62): the "otherwise" rows
exclude the bytes that the exact-match rows of the same state take; every other operand is free (R70). -/

namespace Sys2Proof

/-- The operand conditions of R62; RX.BADESC's are those of R109. -/
def Instr.wellFormed : Instr → Bool
  | .rxJunk w => w != Config.delim
  | .rxLit w => w != Config.delim && w != Config.esc
  | .rxBadEsc s => s != Config.escDelim && s != Config.escEsc && s != Config.delim
  | .rxDropSkip w => w != Config.delim
  | .rxOpen | .rxClose | .rxEsc | .rxUnescDelim | .rxUnescEsc | .rxTrunc | .rxDropEnd => true
  | .txData _ | .txEof _ | .txRsvd1 _ | .txRsvd3 _ => true
  | .ckData _ | .ckInit _ | .ckZero _ | .ckSeed _ => true
  | .data _ | .eof | .errTrunc | .errBadEsc => true

end Sys2Proof
end

