-- ==== Sys2Proof/Decode.lean ====
section
/-! DEFINITION. Decoding of wire bytes and tokens (30_encoding.md R60 to R70), the encoder, the opcode
table as data (R72), and the host's reading of a table word. -/

namespace Sys2Proof

/-! ### Token fields (R66) -/

/-- `tok[9:8]`. -/
def tokKind (t : Token) : BitVec 2 := t.extractLsb' 8 2

/-- `tok[7:0]`. -/
def tokData (t : Token) : Byte := t.extractLsb' 0 8

/-- The token `{kind, data}`. -/
def mkTok (kind : BitVec 2) (data : Byte) : Token := kind ++ data

/-! ### The wire language (R61, R62) -/

/-- R62: which symbol a received byte is depends on `rx_state` and on nothing else.  Total: every byte has
exactly one class in every state. -/
def classify (st : RxState) (w : Byte) : Instr :=
  match st with
  | .idle => if w = Config.delim then .rxOpen else .rxJunk w
  | .frame =>
    if w = Config.delim then .rxClose else if w = Config.esc then .rxEsc else .rxLit w
  | .esc =>
    if w = Config.escDelim then .rxUnescDelim
    else if w = Config.escEsc then .rxUnescEsc
    else if w = Config.delim then .rxTrunc
    else .rxBadEsc w
  | .drop => if w = Config.delim then .rxDropEnd else .rxDropSkip w

/-! ### The token language (R67, R68, R69) -/

/-- R67: tokens accepted on `tx_in`; every 10-bit value is one of them. -/
def decodeTxIn (t : Token) : Instr :=
  if tokKind t = 0b00#2 then .txData (tokData t)
  else if tokKind t = 0b10#2 then .txEof (tokData t)
  else if tokKind t = 0b01#2 then .txRsvd1 (tokData t)
  else .txRsvd3 (tokData t)

/-- R68: tokens accepted on `ck_in`; every 10-bit value is one of them. -/
def decodeCkIn (t : Token) : Instr :=
  if tokKind t = 0b00#2 then .ckData (tokData t)
  else if tokKind t = 0b01#2 then .ckInit (tokData t)
  else if tokKind t = 0b10#2 then .ckZero (tokData t)
  else .ckSeed (tokData t)

/-- Why a slot of the encoding space is no instruction. -/
inductive Reject where
  /-- a 10-bit value DEC never produces (R69): kind `0b01`, `EOF` with data, `ERR` with another code -/
  | neverProduced
  /-- a two-byte pattern whose first byte is not `ESC` (R60) -/
  | noPrefix
  /-- a one-byte symbol read in `RX_ESC`: the byte there is the second of a two-byte symbol (R62) -/
  | secondByteAlone
  /-- a two-byte symbol read in another state than `RX_ESC` (R62) -/
  | pairOutsideEscape
  /-- a port and a format that have no row in the table (R60, R72) -/
  | noRow
  /-- bits set above the format's width (R60) -/
  | tooWide
  deriving DecidableEq, Repr

/-- What the decoder answers: an instruction, or a rejection by name. -/
inductive Decoded where
  | instr (i : Instr)
  | reject (r : Reject)
  deriving DecidableEq, Repr

/-- R69: the tokens produced on `rx_out`, and no other 10-bit value. -/
def decodeRxOut (t : Token) : Decoded :=
  if tokKind t = 0b00#2 then .instr (.data (tokData t))
  else if t = 0x200#10 then .instr .eof
  else if t = 0x301#10 then .instr .errTrunc
  else if t = 0x302#10 then .instr .errBadEsc
  else .reject .neverProduced

/-- The decoder over the whole encoding space: a port, the state of DEC, a format and the pattern's bits
(W16 with the byte that is on the wire first in bits 15:8, R60).  The state matters on `rx_in` only (R72);
for W16 it is the state in which the second byte is read. -/
def decode (p : Port) (st : RxState) (f : Format) (v : BitVec 16) : Decoded :=
  match p, f with
  | .rxIn, .w8 =>
    if v.extractLsb' 8 8 = 0#8 then
      if st = .esc then .reject .secondByteAlone else .instr (classify st (v.extractLsb' 0 8))
    else .reject .tooWide
  | .rxIn, .w16 =>
    if v.extractLsb' 8 8 = Config.esc then
      if st = .esc then .instr (classify .esc (v.extractLsb' 0 8)) else .reject .pairOutsideEscape
    else .reject .noPrefix
  | .txIn, .t10 =>
    if v.extractLsb' 10 6 = 0#6 then .instr (decodeTxIn (v.extractLsb' 0 10)) else .reject .tooWide
  | .ckIn, .t10 =>
    if v.extractLsb' 10 6 = 0#6 then .instr (decodeCkIn (v.extractLsb' 0 10)) else .reject .tooWide
  | .rxOut, .t10 =>
    if v.extractLsb' 10 6 = 0#6 then decodeRxOut (v.extractLsb' 0 10) else .reject .tooWide
  | .rxIn, .t10 | .txIn, .w8 | .txIn, .w16 | .ckIn, .w8 | .ckIn, .w16 | .rxOut, .w8 | .rxOut, .w16
  | .txOut, .w8 | .txOut, .w16 | .txOut, .t10 => .reject .noRow

/-! ### The encoder -/

/-- The port of the instruction's row. -/
def portOf : Instr → Port
  | .rxOpen | .rxJunk _ | .rxClose | .rxEsc | .rxLit _ | .rxUnescDelim | .rxUnescEsc | .rxTrunc
  | .rxBadEsc _ | .rxDropEnd | .rxDropSkip _ => .rxIn
  | .txData _ | .txEof _ | .txRsvd1 _ | .txRsvd3 _ => .txIn
  | .ckData _ | .ckInit _ | .ckZero _ | .ckSeed _ => .ckIn
  | .data _ | .eof | .errTrunc | .errBadEsc => .rxOut

/-- The `state` of the instruction's row; `none` is the table's `any` (R72). -/
def rxStateOf : Instr → Option RxState
  | .rxOpen | .rxJunk _ => some .idle
  | .rxClose | .rxEsc | .rxLit _ => some .frame
  | .rxUnescDelim | .rxUnescEsc | .rxTrunc | .rxBadEsc _ => some .esc
  | .rxDropEnd | .rxDropSkip _ => some .drop
  | .txData _ | .txEof _ | .txRsvd1 _ | .txRsvd3 _ | .ckData _ | .ckInit _ | .ckZero _ | .ckSeed _
  | .data _ | .eof | .errTrunc | .errBadEsc => none

/-- The format of the instruction's row. -/
def formatOf : Instr → Format
  | .rxOpen | .rxJunk _ | .rxClose | .rxEsc | .rxLit _ | .rxDropEnd | .rxDropSkip _ => .w8
  | .rxUnescDelim | .rxUnescEsc | .rxTrunc | .rxBadEsc _ => .w16
  | .txData _ | .txEof _ | .txRsvd1 _ | .txRsvd3 _ | .ckData _ | .ckInit _ | .ckZero _ | .ckSeed _
  | .data _ | .eof | .errTrunc | .errBadEsc => .t10

/-- The wire byte whose transfer executes the symbol (R62, R63): for the two-byte symbols the second byte.
A token row has none. -/
def wireByte? : Instr → Option Byte
  | .rxOpen | .rxClose | .rxTrunc | .rxDropEnd => some Config.delim
  | .rxEsc => some Config.esc
  | .rxUnescDelim => some Config.escDelim
  | .rxUnescEsc => some Config.escEsc
  | .rxJunk w | .rxLit w | .rxBadEsc w | .rxDropSkip w => some w
  | .txData _ | .txEof _ | .txRsvd1 _ | .txRsvd3 _ | .ckData _ | .ckInit _ | .ckZero _ | .ckSeed _
  | .data _ | .eof | .errTrunc | .errBadEsc => none

/-- The token of a token row (R67, R68, R69); a wire symbol has none. -/
def token? : Instr → Option Token
  | .txData b | .ckData b | .data b => some (mkTok 0b00#2 b)
  | .txRsvd1 d | .ckInit d => some (mkTok 0b01#2 d)
  | .txEof d | .ckZero d => some (mkTok 0b10#2 d)
  | .txRsvd3 d | .ckSeed d => some (mkTok 0b11#2 d)
  | .eof => some (mkTok 0b10#2 0x00#8)
  | .errTrunc => some (mkTok 0b11#2 0x01#8)
  | .errBadEsc => some (mkTok 0b11#2 0x02#8)
  | .rxOpen | .rxJunk _ | .rxClose | .rxEsc | .rxLit _ | .rxUnescDelim | .rxUnescEsc | .rxTrunc
  | .rxBadEsc _ | .rxDropEnd | .rxDropSkip _ => none

/-- The instruction's bits in its format (R60): W8 the byte, W16 `ESC` above the second byte, T10 the token. -/
def encode (i : Instr) : BitVec 16 :=
  match formatOf i with
  | .w8 => (0#8 ++ (wireByte? i).getD 0 : BitVec 16)
  | .w16 => (Config.esc ++ (wireByte? i).getD 0 : BitVec 16)
  | .t10 => (0#6 ++ (token? i).getD 0 : BitVec 16)

/-! ### The opcode table (R72) -/

/-- The mnemonic of the instruction's row. -/
def mnemonicOf : Instr → String
  | .rxOpen => "RX.OPEN"
  | .rxJunk _ => "RX.JUNK"
  | .rxClose => "RX.CLOSE"
  | .rxEsc => "RX.ESC"
  | .rxLit _ => "RX.LIT"
  | .rxUnescDelim => "RX.UNESC_DELIM"
  | .rxUnescEsc => "RX.UNESC_ESC"
  | .rxTrunc => "RX.TRUNC"
  | .rxBadEsc _ => "RX.BADESC"
  | .rxDropEnd => "RX.DROP_END"
  | .rxDropSkip _ => "RX.DROP_SKIP"
  | .txData _ => "TX.DATA"
  | .txEof _ => "TX.EOF"
  | .txRsvd1 _ => "TX.RSVD1"
  | .txRsvd3 _ => "TX.RSVD3"
  | .ckData _ => "CK.DATA"
  | .ckInit _ => "CK.INIT"
  | .ckZero _ => "CK.ZERO"
  | .ckSeed _ => "CK.SEED"
  | .data _ => "DATA"
  | .eof => "EOF"
  | .errTrunc => "ERR_TRUNC"
  | .errBadEsc => "ERR_BADESC"

/-- One row of the table: a value `v` of the row's format selects it when `v &&& mask = bits`. -/
structure Row where
  mnemonic : String
  format : Format
  bits : BitVec 16
  mask : BitVec 16
  priority : Nat
  rxState : Option RxState
  port : Port
  deriving DecidableEq, Repr

/-- The eleven wire symbol rows (R62). -/
def wireRows : List Row :=
  [⟨"RX.OPEN", .w8, 0xC0, 0xFF, 1, some .idle, .rxIn⟩,
   ⟨"RX.JUNK", .w8, 0x00, 0x00, 0, some .idle, .rxIn⟩,
   ⟨"RX.CLOSE", .w8, 0xC0, 0xFF, 1, some .frame, .rxIn⟩,
   ⟨"RX.ESC", .w8, 0xDB, 0xFF, 1, some .frame, .rxIn⟩,
   ⟨"RX.LIT", .w8, 0x00, 0x00, 0, some .frame, .rxIn⟩,
   ⟨"RX.UNESC_DELIM", .w16, 0xDBDC, 0xFFFF, 1, some .esc, .rxIn⟩,
   ⟨"RX.UNESC_ESC", .w16, 0xDBDD, 0xFFFF, 1, some .esc, .rxIn⟩,
   ⟨"RX.TRUNC", .w16, 0xDBC0, 0xFFFF, 1, some .esc, .rxIn⟩,
   ⟨"RX.BADESC", .w16, 0xDB00, 0xFF00, 0, some .esc, .rxIn⟩,
   ⟨"RX.DROP_END", .w8, 0xC0, 0xFF, 1, some .drop, .rxIn⟩,
   ⟨"RX.DROP_SKIP", .w8, 0x00, 0x00, 0, some .drop, .rxIn⟩]

/-- The twelve token rows (R67, R68, R69). -/
def tokenRows : List Row :=
  [⟨"TX.DATA", .t10, 0x000, 0x300, 1, none, .txIn⟩,
   ⟨"TX.EOF", .t10, 0x200, 0x300, 1, none, .txIn⟩,
   ⟨"TX.RSVD1", .t10, 0x100, 0x300, 1, none, .txIn⟩,
   ⟨"TX.RSVD3", .t10, 0x300, 0x300, 1, none, .txIn⟩,
   ⟨"CK.DATA", .t10, 0x000, 0x300, 1, none, .ckIn⟩,
   ⟨"CK.INIT", .t10, 0x100, 0x300, 1, none, .ckIn⟩,
   ⟨"CK.ZERO", .t10, 0x200, 0x300, 1, none, .ckIn⟩,
   ⟨"CK.SEED", .t10, 0x300, 0x300, 1, none, .ckIn⟩,
   ⟨"DATA", .t10, 0x000, 0x300, 1, none, .rxOut⟩,
   ⟨"EOF", .t10, 0x200, 0x3FF, 1, none, .rxOut⟩,
   ⟨"ERR_TRUNC", .t10, 0x301, 0x3FF, 1, none, .rxOut⟩,
   ⟨"ERR_BADESC", .t10, 0x302, 0x3FF, 1, none, .rxOut⟩]

/-- The 23 rows of spec/opcode_table.json, in its order. -/
def opcodeTable : List Row := wireRows ++ tokenRows

/-- The bits a format has (R60). -/
def Format.width : Format → Nat
  | .w8 => 8
  | .w16 => 16
  | .t10 => 10

/-- `v` has the row's format and matches the row's fixed bits (R72). -/
def Row.selects (r : Row) (v : BitVec 16) : Bool :=
  decide (v.toNat < 2 ^ r.format.width) && (v &&& r.mask == r.bits)

/-- The row stands for this port, state of DEC and format. -/
def Row.appliesTo (r : Row) (p : Port) (st : RxState) (f : Format) : Bool :=
  r.port == p && (r.rxState == none || r.rxState == some st) && r.format == f

/-- `r` is preferred to what was found before it when its priority is higher. -/
def higherPriority (found : Option Row) (r : Row) : Option Row :=
  match found with
  | none => some r
  | some best => if best.priority < r.priority then some r else some best

/-- R72: the row of a port, state and format that a value selects, an exact match before an "otherwise". -/
def tableLookup (p : Port) (st : RxState) (f : Format) (v : BitVec 16) : Option Row :=
  (opcodeTable.filter fun r => r.appliesTo p st f && r.selects v).foldl higherPriority none

/-! ### The host's question: what instruction are these bits? -/

/-- A datum put where it is transferred: the port, the state of DEC it needs there, the format and the bits. -/
structure Placed where
  port : Port
  rxState : RxState
  format : Format
  bits : BitVec 16
  deriving DecidableEq, Repr

/-- `r` is preferred to what was found before it when it fixes more bits. -/
def moreFixedBits (found : Option Row) (r : Row) : Option Row :=
  match found with
  | none => some r
  | some best => if best.mask.toNat < r.mask.toNat then some r else some best

/-- The formats of a table word of `nbits` bits in whole bytes: one byte is W8; two bytes are W16 or T10,
which no value is both of (a W16 row has `ESC` in bits 15:8). -/
def formatFits (nbits : Nat) (f : Format) : Bool :=
  if nbits ≤ 8 then f == .w8 else f == .w16 || f == .t10

/-- DESIGN CHOICE (log entry 9), safe: bits alone do not name a port or a state of DEC (R62, R66: the same
bits mean different things on different ports and in different states), so of the rows the bits select the
one that fixes the most bits is meant, the first in the table where several fix as many. -/
def placeTableWord (nbits w : Nat) : Option Placed :=
  if w < 2 ^ 16 then
    let v := BitVec.ofNat 16 w
    match (opcodeTable.filter fun r => formatFits nbits r.format && r.selects v).foldl moreFixedBits none with
    | some r => some ⟨r.port, r.rxState.getD .idle, r.format, v⟩
    | none => none
  else none

/-- The host's fixed name: the instruction the decoder reads from a table word. -/
def decodeTableWord (nbits w : Nat) : Option Instr :=
  match placeTableWord nbits w with
  | none => none
  | some a =>
    match decode a.port a.rxState a.format a.bits with
    | .instr i => some i
    | .reject _ => none

end Sys2Proof
end

