-- ==== Sys2Proof/Machine/Operands.lean ====
section
/-! DEFINITION. Operand assembly: the bytes ENC sends for a payload byte (00_scope.md 5.4), the payload byte a
wire symbol stands for (30_encoding.md R63), and the tokens DEC produces (R69). -/

namespace Sys2Proof.Machine

/-- `esc(b)` (00_scope.md 5.4; 40_encoder.md R81): `ESC` first, then its substitute byte (R43). -/
def escBytes (b : Byte) : List Byte :=
  if b = Config.delim then [Config.esc, Config.escDelim]
  else if b = Config.esc then [Config.esc, Config.escEsc]
  else [b]

/-- R63: the payload byte a wire symbol stands for; the substitution is a two-entry table, not arithmetic. -/
def payloadByte? : Instr → Option Byte
  | .rxLit w => some w
  | .rxUnescDelim => some Config.delim
  | .rxUnescEsc => some Config.esc
  | .rxOpen | .rxJunk _ | .rxClose | .rxEsc | .rxTrunc | .rxBadEsc _ | .rxDropEnd | .rxDropSkip _ => none
  | .txData _ | .txEof _ | .txRsvd1 _ | .txRsvd3 _ | .ckData _ | .ckInit _ | .ckZero _ | .ckSeed _ => none
  | .data _ | .eof | .errTrunc | .errBadEsc => none

/-- `DATA(b)` (R69). -/
def dataTok (b : Byte) : Token := mkTok 0b00#2 b

/-- `EOF` (R69): the data field is always `0x00`. -/
def eofTok : Token := mkTok 0b10#2 0x00#8

/-- `ERR(code)` (R69). -/
def errTok (code : Byte) : Token := mkTok 0b11#2 code

/-- The code of `ERR_TRUNC` (60_exceptions.md R150). -/
def errTruncCode : Byte := 0x01#8

/-- The code of `ERR_BADESC` (60_exceptions.md R151). -/
def errBadEscCode : Byte := 0x02#8

end Sys2Proof.Machine
end

