-- ==== Sys2Proof/Machine/Ops.lean ====
section
/-! DEFINITION. The named operations over FCE's state: the queue primitives (00_scope.md 5.2), one write per
register, raising a framing error (60_exceptions.md R152), and the shapes every meaning is written in: a
token on `tx_in` (R80), a byte on `rx_in` (R100), a token delivered on `rx_out` (R112). -/

namespace Sys2Proof.Machine

/-! ### Queue primitives -/

/-- `push(q, v)` for several values in order: `q <- q ++ vs` (00_scope.md 5.2). -/
def Queue.push {α : Type} (q : Queue α) (vs : List α) : Queue α := ⟨q.cap, q.items ++ vs⟩

/-- The queue after `pop(q)`: `q <- q[1..]` (00_scope.md 5.2). -/
def Queue.pop {α : Type} (q : Queue α) : Queue α := ⟨q.cap, q.items.tail⟩

/-- The queue emptied by reset (R170); the capacity is a parameter and stays (R33). -/
def Queue.clear {α : Type} (q : Queue α) : Queue α := ⟨q.cap, []⟩

/-! ### One write per register -/

/-- `tx_state <- v` -/
def State.setTxState (s : State) (v : TxState) : State := { s with txState := v }

/-- `rx_state <- v` -/
def State.setRxState (s : State) (v : RxState) : State := { s with rxState := v }

/-- `ck_acc <- v` -/
def State.setCkAcc (s : State) (v : Byte) : State := { s with ckAcc := v }

/-- `ck_seed <- v` -/
def State.setCkSeed (s : State) (v : Byte) : State := { s with ckSeed := v }

/-- Push bytes on `tx_q`, in order and together (R48). -/
def State.pushTx (s : State) (ws : List Byte) : State := { s with txQ := s.txQ.push ws }

/-- Push one token on `rx_q` (R100: at most one a step). -/
def State.pushRx (s : State) (t : Token) : State := { s with rxQ := s.rxQ.push [t] }

/-- Add one happening to the environment's record. -/
def State.record (s : State) (h : Happening) : State :=
  { s with env := { s.env with log := s.env.log ++ [h] } }

/-! ### Delivery -/

/-- TX.POP (R84): the wire side takes the oldest byte of `tx_q`; with `tx_q` empty nothing is delivered. -/
def State.popTx (s : State) : State :=
  match s.txQ.items with
  | [] => s
  | w :: _ => { s with txQ := s.txQ.pop }.record (.txOut w)

/-- RX.POP (R112): the host takes the oldest token of `rx_q`; with `rx_q` empty nothing is delivered. -/
def State.popRx (s : State) : State :=
  match s.rxQ.items with
  | [] => s
  | t :: _ => { s with rxQ := s.rxQ.pop }.record (.rxOut t)

/-! ### The exception -/

/-- `raise FramingError(code)` with the write of `rx_state` that the raising rule states (60_exceptions.md R152,
R156): the token `ERR(code)` and `rx_state`; nothing is saved, no flag, no handler, no other unit.  There is no
return operation beside it (R157): DEC leaves the condition by RX.DROP_END. -/
def State.raiseFramingError (s : State) (code : Byte) (after : RxState) : State :=
  (s.pushRx (errTok code)).setRxState after

/-! ### Reset -/

/-- A rising edge with `rst == 1` (R170): every item of R34 takes its reset value, and what the queues held is
lost, not delivered.  The senders and the record are the environment's and stay. -/
def State.resetEdge (s : State) : State :=
  { s with
    txState := .idle
    txQ := s.txQ.clear
    rxState := .idle
    rxQ := s.rxQ.clear
    ckAcc := 0x00#8
    ckSeed := Config.seedReset }

/-! ### The shapes of the meanings -/

/-- A token transfer on `tx_in` (R80): enabled when `free(tx_q) >= 3`, whatever the token; otherwise held, and
nothing changes. -/
def onTxIn (s after : State) : Host.Outcome State Fault Refusal :=
  if s.txInReady then .next after else .next s

/-- A byte transfer on `rx_in` (R100): enabled when `free(rx_q) >= 1`, whatever the byte and the state;
otherwise held, and nothing changes.  `w` is then the symbol `i` only where R62 classifies it so. -/
def onRxIn (i : Instr) (w : Byte) (s after : State) : Host.Outcome State Fault Refusal :=
  if s.rxInReady then
    if classify s.rxState w = i then .next after else .refused .notThatSymbol
  else .next s

/-- The delivery of the token `i` on `rx_out` (R112): enabled when `len(rx_q) >= 1`; with `rx_q` empty nothing
is delivered.  The token delivered is the head of `rx_q`. -/
def onRxOut (i : Instr) (s : State) : Host.Outcome State Fault Refusal :=
  match s.rxQ.items with
  | [] => .next s
  | t :: _ => if decodeRxOut t = .instr i then .next s.popRx else .refused .notThatSymbol

end Sys2Proof.Machine
end

