-- ==== Sys2Proof/Machine/Checksum.lean ====
section
/-! DEFINITION. The tokens CKS executes on `ck_in` (42_checksum.md R130 to R134): always enabled, never held. -/

namespace Sys2Proof.Machine

/-- CK.DATA (R131, R136): `ck_acc <- ck_acc ^ b`. -/
def execCkData (b : Byte) (s : State) : Host.Outcome State Fault Refusal :=
  .next (s.setCkAcc (s.ckAcc ^^^ b))

/-- CK.INIT (R132): `ck_acc <- ck_seed`.  The data field is ignored. -/
def execCkInit (_ignored : Byte) (s : State) : Host.Outcome State Fault Refusal :=
  .next (s.setCkAcc s.ckSeed)

/-- CK.ZERO (R133): `ck_acc <- 0x00`.  The data field is ignored. -/
def execCkZero (_ignored : Byte) (s : State) : Host.Outcome State Fault Refusal :=
  .next (s.setCkAcc 0x00#8)

/-- CK.SEED (R134): `ck_seed <- b`; an accumulation in progress is not touched (R141). -/
def execCkSeed (b : Byte) (s : State) : Host.Outcome State Fault Refusal :=
  .next (s.setCkSeed b)

end Sys2Proof.Machine
end

