-- ==== Sys2Proof/Machine/Decoder.lean ====
section
/-! DEFINITION. The wire symbols DEC executes on `rx_in` (41_decoder.md R100 to R111). -/

namespace Sys2Proof.Machine

/-- RX.OPEN (R101): opening delimiter. -/
def execRxOpen (s : State) : Host.Outcome State Fault Refusal :=
  onRxIn .rxOpen Config.delim s (s.setRxState .frame)

/-- RX.JUNK (R102): byte outside any frame, consumed and discarded. -/
def execRxJunk (w : Byte) (s : State) : Host.Outcome State Fault Refusal :=
  onRxIn (.rxJunk w) w s s

/-- RX.CLOSE (R103): closing delimiter; the frame is complete. -/
def execRxClose (s : State) : Host.Outcome State Fault Refusal :=
  onRxIn .rxClose Config.delim s ((s.pushRx eofTok).setRxState .idle)

/-- RX.ESC (R104): escape prefix. -/
def execRxEsc (s : State) : Host.Outcome State Fault Refusal :=
  onRxIn .rxEsc Config.esc s (s.setRxState .esc)

/-- RX.LIT (R105): literal body byte. -/
def execRxLit (w : Byte) (s : State) : Host.Outcome State Fault Refusal :=
  onRxIn (.rxLit w) w s (s.pushRx (dataTok w))

/-- RX.UNESC_DELIM (R106): escape sequence for the delimiter. -/
def execRxUnescDelim (s : State) : Host.Outcome State Fault Refusal :=
  onRxIn .rxUnescDelim Config.escDelim s ((s.pushRx (dataTok Config.delim)).setRxState .frame)

/-- RX.UNESC_ESC (R107): escape sequence for the escape byte. -/
def execRxUnescEsc (s : State) : Host.Outcome State Fault Refusal :=
  onRxIn .rxUnescEsc Config.escEsc s ((s.pushRx (dataTok Config.esc)).setRxState .frame)

/-- RX.TRUNC (R108, R150): delimiter in the middle of an escape sequence; it closes the bad frame. -/
def execRxTrunc (s : State) : Host.Outcome State Fault Refusal :=
  onRxIn .rxTrunc Config.delim s (s.raiseFramingError errTruncCode .idle)

/-- RX.BADESC (R109, R151): `ESC` followed by a byte that completes no escape sequence. -/
def execRxBadEsc (w : Byte) (s : State) : Host.Outcome State Fault Refusal :=
  onRxIn (.rxBadEsc w) w s (s.raiseFramingError errBadEscCode .drop)

/-- RX.DROP_END (R110, R157): closing delimiter of a bad frame. -/
def execRxDropEnd (s : State) : Host.Outcome State Fault Refusal :=
  onRxIn .rxDropEnd Config.delim s (s.setRxState .idle)

/-- RX.DROP_SKIP (R111): byte of a bad frame, consumed and discarded. -/
def execRxDropSkip (w : Byte) (s : State) : Host.Outcome State Fault Refusal :=
  onRxIn (.rxDropSkip w) w s s

end Sys2Proof.Machine
end

