-- ==== Sys2Proof/Machine/Delivery.lean ====
section
/-! DEFINITION. The tokens DEC delivers on `rx_out` (30_encoding.md R69): the host takes the head of `rx_q`
(41_decoder.md R112). -/

namespace Sys2Proof.Machine

/-- DATA (R69, R112, R114): one decoded payload byte is delivered. -/
def execData (b : Byte) (s : State) : Host.Outcome State Fault Refusal :=
  onRxOut (.data b) s

/-- EOF (R69, R112, R114): the end of a good frame is delivered. -/
def execEof (s : State) : Host.Outcome State Fault Refusal :=
  onRxOut .eof s

/-- ERR_TRUNC (R69, R112, R150): the error is delivered like any other token; nothing acknowledges it. -/
def execErrTrunc (s : State) : Host.Outcome State Fault Refusal :=
  onRxOut .errTrunc s

/-- ERR_BADESC (R69, R112, R151): the error is delivered like any other token; nothing acknowledges it. -/
def execErrBadEsc (s : State) : Host.Outcome State Fault Refusal :=
  onRxOut .errBadEsc s

end Sys2Proof.Machine
end

