-- ==== Sys2Proof/Machine/Encoder.lean ====
section
/-! DEFINITION. The tokens ENC executes on `tx_in` (40_encoder.md R80 to R83). -/

namespace Sys2Proof.Machine

/-- The opening delimiter, pushed by the first token of a frame only (R81). -/
def openingBytes : TxState → List Byte
  | .idle => [Config.delim]
  | .frame => []

/-- TX.DATA (R81): open a frame if none is open, then append the payload byte, escaped. -/
def execTxData (b : Byte) (s : State) : Host.Outcome State Fault Refusal :=
  onTxIn s ((s.pushTx (openingBytes s.txState ++ escBytes b)).setTxState .frame)

/-- TX.EOF (R82): close the frame; with none open, emit the empty frame.  The data field is ignored. -/
def execTxEof (_ignored : Byte) (s : State) : Host.Outcome State Fault Refusal :=
  onTxIn s ((s.pushTx (openingBytes s.txState ++ [Config.delim])).setTxState .idle)

/-- TX.RSVD1 (R83): the token is consumed and has no effect at all. -/
def execTxRsvd1 (_ignored : Byte) (s : State) : Host.Outcome State Fault Refusal :=
  onTxIn s s

/-- TX.RSVD3 (R83): the token is consumed and has no effect at all. -/
def execTxRsvd3 (_ignored : Byte) (s : State) : Host.Outcome State Fault Refusal :=
  onTxIn s s

end Sys2Proof.Machine
end

