-- ==== Sys2Proof/Machine/Dispatch.lean ====
section
/-! DEFINITION. The meaning of every row of the opcode table, one arm each. -/

namespace Sys2Proof.Machine

def exec (i : Instr) (s : State) : Host.Outcome State Fault Refusal :=
  match i with
  | .rxOpen => Sys2Proof.Machine.execRxOpen s
  | .rxJunk w => Sys2Proof.Machine.execRxJunk w s
  | .rxClose => Sys2Proof.Machine.execRxClose s
  | .rxEsc => Sys2Proof.Machine.execRxEsc s
  | .rxLit w => Sys2Proof.Machine.execRxLit w s
  | .rxUnescDelim => Sys2Proof.Machine.execRxUnescDelim s
  | .rxUnescEsc => Sys2Proof.Machine.execRxUnescEsc s
  | .rxTrunc => Sys2Proof.Machine.execRxTrunc s
  | .rxBadEsc w => Sys2Proof.Machine.execRxBadEsc w s
  | .rxDropEnd => Sys2Proof.Machine.execRxDropEnd s
  | .rxDropSkip w => Sys2Proof.Machine.execRxDropSkip w s
  | .txData b => Sys2Proof.Machine.execTxData b s
  | .txEof d => Sys2Proof.Machine.execTxEof d s
  | .txRsvd1 d => Sys2Proof.Machine.execTxRsvd1 d s
  | .txRsvd3 d => Sys2Proof.Machine.execTxRsvd3 d s
  | .ckData b => Sys2Proof.Machine.execCkData b s
  | .ckInit d => Sys2Proof.Machine.execCkInit d s
  | .ckZero d => Sys2Proof.Machine.execCkZero d s
  | .ckSeed b => Sys2Proof.Machine.execCkSeed b s
  | .data b => Sys2Proof.Machine.execData b s
  | .eof => Sys2Proof.Machine.execEof s
  | .errTrunc => Sys2Proof.Machine.execErrTrunc s
  | .errBadEsc => Sys2Proof.Machine.execErrBadEsc s

end Sys2Proof.Machine
end

