-- ==== Sys2Proof/Machine/Ports.lean ====
section
/-! DEFINITION. What a turn of the environment transfers (10_state.md R30, R31): the instruction a port
presents, with the datum taken off the port, and the events that are no instruction (TX.POP, pin samples,
`rst`; 30_encoding.md R72). -/

namespace Sys2Proof.Machine

/-- A token leaves the sender on `tx_in`. -/
def State.takeTxIn (s : State) (t : Token) (more : List Token) : State :=
  { s with env := { s.env with txIn := more } }.record (.txIn t)

/-- A byte leaves the sender on `rx_in`. -/
def State.takeRxIn (s : State) (w : Byte) (more : List Byte) : State :=
  { s with env := { s.env with rxIn := more } }.record (.rxIn w)

/-- A token leaves the sender on `ck_in`. -/
def State.takeCkIn (s : State) (t : Token) (more : List Token) : State :=
  { s with env := { s.env with ckIn := more } }.record (.ckIn t)

/-- The instruction transferred in this turn, and the state with its datum taken off the sender.  A transfer
needs both sides (R31): the sender must offer and the unit must be ready.  On `rx_out` the datum stays in
`rx_q` for the instruction's own pop (DEDUCED, log entry 8, safe).

DESIGN CHOICE (log entry 13), safe: in a `wire` turn the sender on `rx_in` is `tx_out`, so the head of `tx_q` is
transferred also where `Env.rxIn` offers a byte; that byte stays offered unchanged for the next `rxIn`
turn.  R31 speaks of one sender on the port and does not say which of two comes first. -/
def fetch (e : Event) (s : State) : Option (Instr × State) :=
  match e with
  | .txIn =>
    match s.env.txIn with
    | [] => none
    | t :: more => if s.txInReady then some (decodeTxIn t, s.takeTxIn t more) else none
  | .rxIn =>
    match s.env.rxIn with
    | [] => none
    | w :: more => if s.rxInReady then some (classify s.rxState w, s.takeRxIn w more) else none
  | .ckIn =>
    match s.env.ckIn with
    | [] => none
    | t :: more => if s.ckInReady then some (decodeCkIn t, s.takeCkIn t more) else none
  | .wire =>
    match s.txQ.items with
    | [] => none
    | w :: _ => if s.rxInReady then some (classify s.rxState w, s.popTx.record (.rxIn w)) else none
  | .rxOut =>
    match s.rxQ.items with
    | [] => none
    | t :: _ =>
      match decodeRxOut t with
      | .instr i => some (i, s)
      | .reject _ => none
  | .txOut | .sample _ | .reset => none

/-- What a turn does when it transfers no instruction: TX.POP (R84), a pin sample (R29, R135), a reset edge
(R170); on an input port nothing, because nothing was offered or the transfer is held (R31).  RX.POP pops
whatever the head is (R112), also a token that R69 says is never there (log entry 8). -/
def eventEffect (e : Event) (s : State) : State :=
  match e with
  | .txOut => s.popTx
  | .rxOut => s.popRx
  | .sample p => s.record (.sampled (s.pinValue p))
  | .reset => s.resetEdge.record .reset
  | .txIn | .rxIn | .ckIn | .wire => s

/-- The state in which the turn at the head of the schedule is used up. -/
def State.setSched (s : State) (es : List Event) : State :=
  { s with env := { s.env with sched := es } }

/-- A datum put where the next turn transfers it, with that turn at the head of the schedule.  A two-byte
symbol is placed as its second byte in `RX_ESC`, its prefix having been transferred (R60, R61); a token of
`rx_out` is placed at the head of `rx_q`, where the next RX.POP finds it. -/
def State.place (s : State) (a : Placed) : State :=
  match a.port with
  | .txIn =>
    { s with env := { s.env with
        sched := .txIn :: s.env.sched, txIn := a.bits.extractLsb' 0 10 :: s.env.txIn } }
  | .ckIn =>
    { s with env := { s.env with
        sched := .ckIn :: s.env.sched, ckIn := a.bits.extractLsb' 0 10 :: s.env.ckIn } }
  | .rxIn =>
    { s with
      rxState := a.rxState
      env := { s.env with
        sched := .rxIn :: s.env.sched, rxIn := a.bits.extractLsb' 0 8 :: s.env.rxIn } }
  | .rxOut =>
    { s with
      rxQ := ⟨s.rxQ.cap, a.bits.extractLsb' 0 10 :: s.rxQ.items⟩
      env := { s.env with sched := .rxOut :: s.env.sched } }
  | .txOut => s

end Sys2Proof.Machine
end

