-- ==== Sys2Proof/Machine/Step.lean ====
section
/-! DEFINITION. One step: one turn of the environment's schedule (00_scope.md R14). -/

namespace Sys2Proof.Machine

/-- One step takes the first turn of the schedule: the instruction it transfers is executed, or, where it
transfers none, the event has its effect.  With nothing scheduled no transfer takes place and nothing changes
(10_state.md R31; 60_exceptions.md R164). -/
def step (s : State) : Host.Outcome State Fault Refusal :=
  match s.env.sched with
  | [] => .next s
  | e :: rest =>
    match fetch e (s.setSched rest) with
    | some (i, s') => exec i s'
    | none => .next (eventEffect e (s.setSched rest))

/-- The host's fixed name: the state in which a table word is the datum of the next step (log entries 9
and 10). -/
def State.withFetchWord (s : State) (nbits w : Nat) : State :=
  match placeTableWord nbits w with
  | some a => s.place a
  | none => s

end Sys2Proof.Machine
end

