-- ==== Sys2Proof/Machine/Codec.lean ====
section
/-! DEFINITION. The pure functions of the spec: `body`, `encode`, `ck` (00_scope.md 5.4), the transition tables
of ENC (40_encoder.md R88), DEC (41_decoder.md R113) and CKS (42_checksum.md R131 to R134) as functions of a
stream, `decode` (41_decoder.md R117), and the frame records a host reads off `rx_out` (R114).  None of the
meanings uses them: the laws of the spec say that the units compute them. -/

namespace Sys2Proof.Codec

open Sys2Proof.Machine

/-! ### 00_scope.md 5.4 -/

/-- `body(x) = esc(x[0]) ++ … ++ esc(x[n-1])`. -/
def body : List Byte → List Byte
  | [] => []
  | b :: x => escBytes b ++ body x

/-- `encode(x) = [DELIM] ++ body(x) ++ [DELIM]`, the source's `encode`. -/
def encode (x : List Byte) : List Byte := [Config.delim] ++ body x ++ [Config.delim]

/-- `ck(s, x) = s ^ x[0] ^ … ^ x[n-1]`, the source's checksum with seed `s`. -/
def ck (s : Byte) : List Byte → Byte
  | [] => s
  | b :: x => ck (s ^^^ b) x

/-- `k` of 40_encoder.md R91: how many elements are `DELIM` or `ESC`. -/
def escCount : List Byte → Nat
  | [] => 0
  | b :: x => (if b = Config.delim ∨ b = Config.esc then 1 else 0) + escCount x

/-- 42_checksum.md R145: the 8-bit result in a little-endian checksum field of `n` bytes. -/
def checksumField : Nat → Byte → List Byte
  | 0, _ => []
  | n + 1, c => c :: List.replicate n 0x00#8

/-! ### The transition tables, row by row -/

/-- 40_encoder.md R88: the bytes a token pushes, in order, and `tx_state` after it. -/
def encRow (st : TxState) (t : Token) : List Byte × TxState :=
  match st, tokKind t with
  | .idle, 0b00#2 =>
    if tokData t = Config.delim then ([Config.delim, Config.esc, Config.escDelim], .frame)
    else if tokData t = Config.esc then ([Config.delim, Config.esc, Config.escEsc], .frame)
    else ([Config.delim, tokData t], .frame)
  | .idle, 0b10#2 => ([Config.delim, Config.delim], .idle)
  | .idle, _ => ([], .idle)
  | .frame, 0b00#2 =>
    if tokData t = Config.delim then ([Config.esc, Config.escDelim], .frame)
    else if tokData t = Config.esc then ([Config.esc, Config.escEsc], .frame)
    else ([tokData t], .frame)
  | .frame, 0b10#2 => ([Config.delim], .idle)
  | .frame, _ => ([], .frame)

/-- 41_decoder.md R113: the token a byte pushes, if any, and `rx_state` after it. -/
def decRow (st : RxState) (w : Byte) : Option Token × RxState :=
  match st with
  | .idle => if w = Config.delim then (none, .frame) else (none, .idle)
  | .frame =>
    if w = Config.delim then (some eofTok, .idle)
    else if w = Config.esc then (none, .esc)
    else (some (dataTok w), .frame)
  | .esc =>
    if w = Config.escDelim then (some (dataTok Config.delim), .frame)
    else if w = Config.escEsc then (some (dataTok Config.esc), .frame)
    else if w = Config.delim then (some (errTok 0x01#8), .idle)
    else (some (errTok 0x02#8), .drop)
  | .drop => if w = Config.delim then (none, .idle) else (none, .drop)

/-- 42_checksum.md R131 to R134: `(ck_acc, ck_seed)` after a token. -/
def ckRow (r : Byte × Byte) (t : Token) : Byte × Byte :=
  match tokKind t with
  | 0b00#2 => (r.1 ^^^ tokData t, r.2)
  | 0b01#2 => (r.2, r.2)
  | 0b10#2 => (0x00#8, r.2)
  | _ => (r.1, tokData t)

/-! ### The tables over a stream -/

/-- Every byte a token sequence pushes, in order, and `tx_state` at its end. -/
def encRun (st : TxState) : List Token → List Byte × TxState
  | [] => ([], st)
  | t :: ts =>
    let r := encRun (encRow st t).2 ts
    ((encRow st t).1 ++ r.1, r.2)

/-- Every token a byte sequence pushes, in order, and `rx_state` at its end. -/
def decRun (st : RxState) : List Byte → List Token × RxState
  | [] => ([], st)
  | w :: ws =>
    let r := decRun (decRow st w).2 ws
    ((decRow st w).1.toList ++ r.1, r.2)

/-- `(ck_acc, ck_seed)` after a token sequence. -/
def ckRun (r : Byte × Byte) : List Token → Byte × Byte
  | [] => r
  | t :: ts => ckRun (ckRow r t) ts

/-- The wire symbols a byte sequence is read as (30_encoding.md R61, R62). -/
def symbols (st : RxState) : List Byte → List Instr
  | [] => []
  | w :: ws => classify st w :: symbols (decRow st w).2 ws

/-! ### `decode` (R117) -/

/-- The three outcomes of the source's `decode` (R117, 90_conflicts.md C3). -/
inductive DecodeResult where
  | incomplete
  | frame (payload rest : List Byte)
  | error (code : Byte) (rest : List Byte)
  deriving DecidableEq, Repr

/-- What stands after the next `DELIM`, or nothing where there is none (R117, the `ERR(0x02)` case). -/
def afterDelim : List Byte → List Byte
  | [] => []
  | w :: ws => if w = Config.delim then ws else afterDelim ws

/-- R117 from a state of DEC, `got` being the data fields of the `DATA` tokens pushed so far. -/
def decodeFrom (st : RxState) (got : List Byte) : List Byte → DecodeResult
  | [] => .incomplete
  | w :: ws =>
    match (decRow st w).1 with
    | none => decodeFrom (decRow st w).2 got ws
    | some t =>
      if tokKind t = 0b00#2 then decodeFrom (decRow st w).2 (got ++ [tokData t]) ws
      else if t = eofTok then .frame got ws
      else if t = errTok 0x01#8 then .error 0x01#8 ws
      else .error 0x02#8 (afterDelim ws)

/-- The source's `decode` (R117). -/
def decode (s : List Byte) : DecodeResult := decodeFrom .idle [] s

/-! ### What the host sees (R114) -/

/-- A frame record: a complete, well-formed frame's payload, or a malformed frame's error code, whose data the
host discards (R114, R178). -/
inductive Record where
  | good (payload : List Byte)
  | bad (code : Byte)
  deriving DecidableEq, Repr

/-- A token ends a frame record: it is no `DATA` token (R114). -/
def isTerminator (t : Token) : Bool := tokKind t != 0b00#2

/-- The records of a token stream, and the data bytes after the last terminator; `got` are the data bytes
already seen of the record in progress (R114). -/
def recordsFrom (got : List Byte) : List Token → List Record × List Byte
  | [] => ([], got)
  | t :: ts =>
    if isTerminator t then
      let r := recordsFrom [] ts
      ((if tokKind t = 0b10#2 then Record.good got else Record.bad (tokData t)) :: r.1, r.2)
    else recordsFrom (got ++ [tokData t]) ts

/-- The records of a token stream that starts at a record's start (R114). -/
def records (ts : List Token) : List Record × List Byte := recordsFrom [] ts

end Sys2Proof.Codec
end

