-- ==== Sys2Proof/Machine/Stream.lean ====
section
/-! DEFINITION. The stream language of 30_encoding.md R73 and its pseudo-operations (R74): what a host and a
wire do, in order, and how it is offered to the machine from outside (log entry 10). -/

namespace Sys2Proof.Machine

/-- One item of the stream language (R73), and a rising edge with `rst == 1`. -/
inductive Action where
  /-- a token sent on `tx_in` -/
  | tx (t : Token)
  /-- `W`: a byte sent on `rx_in` -/
  | wire (w : Byte)
  /-- a token sent on `ck_in` -/
  | ck (t : Token)
  /-- `TX.POP` -/
  | txPop
  /-- `RX.POP` -/
  | rxPop
  /-- a pin sample; `CK.READ` is the sample of `ck_out` (R135) -/
  | sample (p : Pin)
  /-- `rst` at one edge (R170) -/
  | rst
  deriving DecidableEq, Repr

/-- An action put behind everything already offered. -/
def State.offer (s : State) (a : Action) : State :=
  match a with
  | .tx t => { s with env := { s.env with sched := s.env.sched ++ [.txIn], txIn := s.env.txIn ++ [t] } }
  | .wire w => { s with env := { s.env with sched := s.env.sched ++ [.rxIn], rxIn := s.env.rxIn ++ [w] } }
  | .ck t => { s with env := { s.env with sched := s.env.sched ++ [.ckIn], ckIn := s.env.ckIn ++ [t] } }
  | .txPop => { s with env := { s.env with sched := s.env.sched ++ [.txOut] } }
  | .rxPop => { s with env := { s.env with sched := s.env.sched ++ [.rxOut] } }
  | .sample p => { s with env := { s.env with sched := s.env.sched ++ [.sample p] } }
  | .rst => { s with env := { s.env with sched := s.env.sched ++ [.reset] } }

/-- A whole program offered in order. -/
def State.offerAll (s : State) (as : List Action) : State := as.foldl State.offer s

/-- The tokens of `FRAME x` (R74): `TX.DATA` for each byte, then `TX.EOF`. -/
def frameTokens (x : List Byte) : List Token := x.map (mkTok 0b00#2) ++ [mkTok 0b10#2 0x00#8]

/-- `FRAME x` (R74). -/
def frameOp (x : List Byte) : List Action := (frameTokens x).map .tx

/-- The tokens of `CKSUM x` (R74): `CK.INIT`, then `CK.DATA` for each byte. -/
def cksumTokens (x : List Byte) : List Token := mkTok 0b01#2 0x00#8 :: x.map (mkTok 0b00#2)

/-- `CKSUM x` (R74). -/
def cksumOp (x : List Byte) : List Action := (cksumTokens x).map .ck ++ [.sample .ckOut]

/-- `CKSUM.S s, x` (R74). -/
def cksumSOp (seed : Byte) (x : List Byte) : List Action := .ck (mkTok 0b11#2 seed) :: cksumOp x

/-- `CKCTRL` (R74). -/
def ckctrlOp : List Action := [.ck (mkTok 0b10#2 0x00#8), .sample .ckOut]

/-- `WIRE ws` (R74). -/
def wireOp (ws : List Byte) : List Action := ws.map .wire

/-- `DRAIN` of `tx_q` (R74). -/
def drainTxOp (s : State) : List Action := List.replicate s.txQ.len .txPop

/-- `DRAIN` of `rx_q` (R74). -/
def drainRxOp (s : State) : List Action := List.replicate s.rxQ.len .rxPop

end Sys2Proof.Machine
end

