-- ==== Sys2Proof/Safety.lean ====
section
/-! DEFINITION. The invariants of FCE (10_state.md R35) and what a run so far says about the state
(20_memory.md R50): the terms the statements use. -/

namespace Sys2Proof.Machine

/-! ### Reading the record -/

/-- What happened since the last reset edge, or since the start where there was none. -/
def sinceReset (log : List Happening) : List Happening :=
  log.foldl (fun acc h => if h = .reset then [] else acc ++ [h]) []

/-- The tokens transferred on `tx_in`, in order. -/
def txInOf : List Happening → List Token
  | [] => []
  | .txIn t :: hs => t :: txInOf hs
  | .txOut _ :: hs | .rxIn _ :: hs | .rxOut _ :: hs | .ckIn _ :: hs | .sampled _ :: hs | .reset :: hs => txInOf hs

/-- The bytes delivered on `tx_out`, in order. -/
def txOutOf : List Happening → List Byte
  | [] => []
  | .txOut w :: hs => w :: txOutOf hs
  | .txIn _ :: hs | .rxIn _ :: hs | .rxOut _ :: hs | .ckIn _ :: hs | .sampled _ :: hs | .reset :: hs => txOutOf hs

/-- The bytes transferred on `rx_in`, in order. -/
def rxInOf : List Happening → List Byte
  | [] => []
  | .rxIn w :: hs => w :: rxInOf hs
  | .txIn _ :: hs | .txOut _ :: hs | .rxOut _ :: hs | .ckIn _ :: hs | .sampled _ :: hs | .reset :: hs => rxInOf hs

/-- The tokens delivered on `rx_out`, in order. -/
def rxOutOf : List Happening → List Token
  | [] => []
  | .rxOut t :: hs => t :: rxOutOf hs
  | .txIn _ :: hs | .txOut _ :: hs | .rxIn _ :: hs | .ckIn _ :: hs | .sampled _ :: hs | .reset :: hs => rxOutOf hs

/-- The tokens transferred on `ck_in`, in order. -/
def ckInOf : List Happening → List Token
  | [] => []
  | .ckIn t :: hs => t :: ckInOf hs
  | .txIn _ :: hs | .txOut _ :: hs | .rxIn _ :: hs | .rxOut _ :: hs | .sampled _ :: hs | .reset :: hs => ckInOf hs

/-! ### The invariants of R35 -/

/-- R35 (b), with the constraints of R12 on the depths. -/
def State.QueuesFit (s : State) : Prop :=
  3 ≤ s.txQ.cap ∧ 1 ≤ s.rxQ.cap ∧ s.txQ.len ≤ s.txQ.cap ∧ s.rxQ.len ≤ s.rxQ.cap

/-- A produced token form of 30_encoding.md R69. -/
def Produced (t : Token) : Prop :=
  (∃ b, t = dataTok b) ∨ t = eofTok ∨ t = errTok 0x01#8 ∨ t = errTok 0x02#8

/-- R35 (a). -/
def State.TokensProduced (s : State) : Prop := ∀ t ∈ s.rxQ.items, Produced t

/-! ### The state is what the transfers since reset make it (R50) -/

/-- ENC: what has left `tx_out` and what is still in `tx_q` are together the bytes that the accepted tokens
push, in order, and `tx_state` is where they lead (R50, R88). -/
def State.EncFollows (s : State) : Prop :=
  (txOutOf (sinceReset s.env.log) ++ s.txQ.items, s.txState)
    = Codec.encRun .idle (txInOf (sinceReset s.env.log))

/-- DEC: what has left `rx_out` and what is still in `rx_q` are together the tokens that the accepted bytes
push, in order, and `rx_state` is where they lead (R50, R113). -/
def State.DecFollows (s : State) : Prop :=
  (rxOutOf (sinceReset s.env.log) ++ s.rxQ.items, s.rxState)
    = Codec.decRun .idle (rxInOf (sinceReset s.env.log))

/-- CKS: both registers are what the accepted tokens make of their reset values (R50, R131 to R134). -/
def State.CksFollows (s : State) : Prop :=
  (s.ckAcc, s.ckSeed) = Codec.ckRun (0x00#8, Config.seedReset) (ckInOf (sinceReset s.env.log))

/-- All three units follow the transfers since reset. -/
def State.Follows (s : State) : Prop := s.EncFollows ∧ s.DecFollows ∧ s.CksFollows

end Sys2Proof.Machine
end

