-- ==== Sys2Proof/Certificates/Slice0/Obligations.lean ====
section
/-! DEFINITION. The statements of this model, taken from the numbered rules of spec/.  Where a statement names a
field of `env`, it is the model's own record of the environment (log entries 1, 3, 4): the field says whose turn
it is, what a sender offers and what was transferred, which the rules say in words.  That exec of a held
transfer answers the same state is log entry 7, and that exec of an `rx_out` row delivers its token log entry 8. -/

open Sys2Proof Sys2Proof.Machine

/-! ### Reset and the state (10_state.md, 70_reset_and_hazards.md) -/

/-- R34 (its reset column), R10, R12: what reset leaves.  The depths are the model's opaque numbers (log entry 2):
nothing is said of them but R12's constraints. -/
def Obligations.ResetStateValues : Prop :=
  State.reset.txState = .idle ∧ State.reset.txQ.items = [] ∧ State.reset.rxState = .idle ∧
  State.reset.rxQ.items = [] ∧ State.reset.ckAcc = 0x00#8 ∧ State.reset.ckSeed = 0xEF#8 ∧
  3 ≤ State.reset.txQ.cap ∧ 1 ≤ State.reset.rxQ.cap

/-- R170: an edge with `rst == 1` transfers nothing and sets every item, whatever the state and whatever is
offered; and during reset every ready and valid signal is 0. -/
def Obligations.ResetEdgeSetsEveryItem : Prop :=
  (∀ (s : State) (rest : List Event), s.env.sched = .reset :: rest →
    step s = .next
      { txState := .idle, txQ := ⟨s.txQ.cap, []⟩, rxState := .idle, rxQ := ⟨s.rxQ.cap, []⟩,
        ckAcc := 0x00#8, ckSeed := 0xEF#8,
        env := { s.env with sched := rest, log := s.env.log ++ [.reset] } }) ∧
  (∀ s : State, (s.outputs true).txInReady = false ∧ (s.outputs true).rxInReady = false ∧
    (s.outputs true).ckInReady = false ∧ (s.outputs true).txOutValid = false ∧
    (s.outputs true).rxOutValid = false)

/-- R29: a status pin is a copy of its register, and a sample of it changes nothing but the record. -/
def Obligations.PinSamplesCopyRegisters : Prop :=
  ∀ (s : State) (rest : List Event) (p : Pin), s.env.sched = .sample p :: rest →
    step s = .next { s with env := { s.env with sched := rest, log := s.env.log ++ [.sampled (
      match p with
      | .txStateO => .txStateO (match s.txState with | .idle => 0b0#1 | .frame => 0b1#1)
      | .rxStateO => .rxStateO (match s.rxState with | .idle => 0b00#2 | .frame => 0b01#2 | .esc => 0b10#2 | .drop => 0b11#2)
      | .ckOut => .ckOut s.ckAcc
      | .ckSeedO => .ckSeedO s.ckSeed)] } }

/-! ### The encoder (40_encoder.md) -/

/-- R81: TX.DATA: its token, enabled and held. -/
def Obligations.TxDataPushesEscapedByte : Prop :=
  ∀ (b : Byte) (s : State),
    decodeTxIn (mkTok 0b00#2 b) = .txData b ∧
    (3 ≤ s.txQ.cap - s.txQ.items.length →
      exec (.txData b) s = .next { s with
        txQ := ⟨s.txQ.cap, s.txQ.items ++ (if s.txState = .idle then [0xC0#8] else [])
          ++ (if b = 0xC0#8 then [0xDB#8, 0xDC#8] else if b = 0xDB#8 then [0xDB#8, 0xDD#8] else [b])⟩
        txState := .frame }) ∧
    (s.txQ.cap - s.txQ.items.length < 3 → exec (.txData b) s = .next s)

/-- R82: TX.EOF: its token, enabled and held, for every value of the ignored data field. -/
def Obligations.TxEofClosesFrame : Prop :=
  ∀ (d : Byte) (s : State),
    decodeTxIn (mkTok 0b10#2 d) = .txEof d ∧
    (3 ≤ s.txQ.cap - s.txQ.items.length →
      exec (.txEof d) s = .next { s with
        txQ := ⟨s.txQ.cap, s.txQ.items ++ (if s.txState = .idle then [0xC0#8, 0xC0#8] else [0xC0#8])⟩
        txState := .idle }) ∧
    (s.txQ.cap - s.txQ.items.length < 3 → exec (.txEof d) s = .next s)

/-- R83: the reserved tokens have no effect; the token is consumed when `tx_in` is ready and held when not. -/
def Obligations.ReservedTokensHaveNoEffect : Prop :=
  (∀ (d : Byte) (s : State),
    decodeTxIn (mkTok 0b01#2 d) = .txRsvd1 d ∧ exec (.txRsvd1 d) s = .next s ∧
    decodeTxIn (mkTok 0b11#2 d) = .txRsvd3 d ∧ exec (.txRsvd3 d) s = .next s) ∧
  (∀ (k : BitVec 2) (d : Byte) (s : State) (rest : List Event) (more : List Token),
    k = 0b01#2 ∨ k = 0b11#2 → s.env.sched = .txIn :: rest → s.env.txIn = mkTok k d :: more →
    (3 ≤ s.txQ.cap - s.txQ.items.length →
      step s = .next { s with env := { s.env with
        sched := rest, txIn := more, log := s.env.log ++ [.txIn (mkTok k d)] } }) ∧
    (s.txQ.cap - s.txQ.items.length < 3 → step s = .next { s with env := { s.env with sched := rest } }))

/-- R80, R31, R30: `tx_in_ready` is 1 exactly when three bytes are free; a token on `tx_in` is held while fewer
are, whatever it is, and the sender keeps offering it. -/
def Obligations.TxInHeldKeepsOffer : Prop :=
  (∀ s : State, (s.outputs false).txInReady = true ↔ 3 ≤ s.txQ.cap - s.txQ.items.length) ∧
  ∀ (s : State) (rest : List Event), s.env.sched = .txIn :: rest →
    s.txQ.cap - s.txQ.items.length < 3 →
    step s = .next { s with env := { s.env with sched := rest } }

/-- R84: TX.POP delivers the oldest byte of `tx_q`, which `tx_out` shows as valid, and nothing when `tx_q` is
empty and `tx_out_valid` is 0. -/
def Obligations.TxPopDeliversOldestByte : Prop :=
  ∀ (s : State) (rest : List Event), s.env.sched = .txOut :: rest →
    (∀ w ws, s.txQ.items = w :: ws →
      step s = .next { s with
        txQ := ⟨s.txQ.cap, ws⟩
        env := { s.env with sched := rest, log := s.env.log ++ [.txOut w] } } ∧
      (s.outputs false).txOutValid = true ∧ (s.outputs false).txOutData = some w) ∧
    (s.txQ.items = [] → step s = .next { s with env := { s.env with sched := rest } } ∧
      (s.outputs false).txOutValid = false)

/-- R88: the transition table of ENC is what its tokens do; TX.POP changes `tx_state` in no row. -/
def Obligations.EncoderFollowsTable : Prop :=
  (∀ (t : Token) (s : State), 3 ≤ s.txQ.cap - s.txQ.items.length →
    exec (decodeTxIn t) s = .next { s with
      txQ := ⟨s.txQ.cap, s.txQ.items ++ (Codec.encRow s.txState t).1⟩
      txState := (Codec.encRow s.txState t).2 }) ∧
  (∀ s : State, s.popTx.txState = s.txState)

/-- R50, R93: over any run without a reset edge, what has been delivered on `tx_out` and what is still queued are
what was queued before followed by what the accepted tokens push, in order: neither the depth nor the moments of
the pops matter, what is delivered is a prefix of it, and all of it once `tx_q` is empty. -/
def Obligations.EncoderRunIsDepthIndependent : Prop :=
  ∀ (n : Nat) (s t : State) (h : List Happening),
    Host.Core.run Sys2Proof.core n s = .next t → t.env.log = s.env.log ++ h → .reset ∉ h →
    (txOutOf h ++ t.txQ.items = s.txQ.items ++ (Codec.encRun s.txState (txInOf h)).1 ∧
      t.txState = (Codec.encRun s.txState (txInOf h)).2) ∧
    txOutOf h <+: s.txQ.items ++ (Codec.encRun s.txState (txInOf h)).1 ∧
    (t.txQ.items = [] → txOutOf h = s.txQ.items ++ (Codec.encRun s.txState (txInOf h)).1)

/-- R89: from `TX_IDLE`, once the tokens of `FRAME x` have been transferred, with any pops and any reserved tokens
between them, the bytes pushed are `encode x` and `tx_state` is `TX_IDLE` again; the data field of the `TX.EOF` is
any. -/
def Obligations.FrameTokensPushEncode : Prop :=
  ∀ (n : Nat) (s t : State) (h : List Happening) (x : List Byte) (d : Byte),
    s.txState = .idle → Host.Core.run Sys2Proof.core n s = .next t →
    t.env.log = s.env.log ++ h → .reset ∉ h →
    (txInOf h).filter (fun u => tokKind u == 0b00#2 || tokKind u == 0b10#2)
      = x.map (mkTok 0b00#2) ++ [mkTok 0b10#2 d] →
    txOutOf h ++ t.txQ.items = s.txQ.items ++ Codec.encode x ∧ t.txState = .idle

/-- R90: the body of a frame holds no `DELIM`, and every `ESC` in it begins one of the two sequences, so `encode x`
holds `DELIM` exactly twice, first and last. -/
def Obligations.BodyIsTransparent : Prop :=
  ∀ x : List Byte,
    Config.delim ∉ Codec.body x ∧
    (∀ i : Nat, (Codec.body x)[i]? = some Config.esc →
      (Codec.body x)[i + 1]? = some Config.escDelim ∨ (Codec.body x)[i + 1]? = some Config.escEsc) ∧
    (Codec.encode x).count Config.delim = 2 ∧
    (Codec.encode x).head? = some Config.delim ∧ (Codec.encode x).getLast? = some Config.delim

/-- R91: the length of an encoding, its bounds, and when they are reached. -/
def Obligations.EncodingLength : Prop :=
  (∀ x : List Byte,
    (Codec.encode x).length = x.length + 2 + x.countP (fun b => b == Config.delim || b == Config.esc) ∧
    x.length + 2 ≤ (Codec.encode x).length ∧ (Codec.encode x).length ≤ 2 * x.length + 2 ∧
    ((∀ b ∈ x, b ≠ Config.delim ∧ b ≠ Config.esc) → (Codec.encode x).length = x.length + 2) ∧
    ((∀ b ∈ x, b = Config.delim ∨ b = Config.esc) → (Codec.encode x).length = 2 * x.length + 2)) ∧
  (Codec.encode []).length = 2

/-- R92: two frames push both encodings; no delimiter is shared. -/
def Obligations.TwoFramesPushBothEncodings : Prop :=
  ∀ (n : Nat) (s t : State) (h : List Happening) (x y : List Byte) (d e : Byte),
    s.txState = .idle → Host.Core.run Sys2Proof.core n s = .next t →
    t.env.log = s.env.log ++ h → .reset ∉ h →
    txInOf h = x.map (mkTok 0b00#2) ++ mkTok 0b10#2 d :: (y.map (mkTok 0b00#2) ++ [mkTok 0b10#2 e]) →
    txOutOf h ++ t.txQ.items = s.txQ.items ++ Codec.encode x ++ Codec.encode y ∧ t.txState = .idle

/-- R94: no two payloads have one encoding. -/
def Obligations.EncodingIsInjective : Prop :=
  ∀ x y : List Byte, (Codec.body x = Codec.body y → x = y) ∧ (Codec.encode x = Codec.encode y → x = y)

/-- R95: ENC never closes a frame by itself: only an accepted TX.EOF or a reset edge leaves `TX_FRAME`. -/
def Obligations.FrameClosedOnlyByEofOrReset : Prop :=
  ∀ s t : State, step s = .next t → s.txState = .frame → t.txState = .idle →
    t.env.log = s.env.log ++ [.reset] ∨ ∃ d : Byte, t.env.log = s.env.log ++ [.txIn (mkTok 0b10#2 d)]

/-! ### The decoder (41_decoder.md, 60_exceptions.md) -/

/-- R62, R9: the eleven classes, each where its row says; the four framing bytes that its conditions name are
pairwise distinct. -/
def Obligations.WireBytesClassified : Prop :=
  Config.FramingBytesDistinct Config.delim Config.esc Config.escDelim Config.escEsc ∧
  classify .idle 0xC0#8 = .rxOpen ∧ (∀ w, w ≠ 0xC0#8 → classify .idle w = .rxJunk w) ∧
  classify .frame 0xC0#8 = .rxClose ∧ classify .frame 0xDB#8 = .rxEsc ∧
  (∀ w, w ≠ 0xC0#8 → w ≠ 0xDB#8 → classify .frame w = .rxLit w) ∧
  classify .esc 0xDC#8 = .rxUnescDelim ∧ classify .esc 0xDD#8 = .rxUnescEsc ∧ classify .esc 0xC0#8 = .rxTrunc ∧
  (∀ w, w ≠ 0xDC#8 → w ≠ 0xDD#8 → w ≠ 0xC0#8 → classify .esc w = .rxBadEsc w) ∧
  classify .drop 0xC0#8 = .rxDropEnd ∧ (∀ w, w ≠ 0xC0#8 → classify .drop w = .rxDropSkip w)

/-- R101, R102: the symbols of `RX_IDLE`, enabled and held; a junk byte leaves its sender and changes nothing. -/
def Obligations.IdleSymbolResults : Prop :=
  ∀ s : State, s.rxState = .idle →
    (1 ≤ s.rxQ.cap - s.rxQ.items.length →
      (classify s.rxState 0xC0#8 = .rxOpen ∧ exec .rxOpen s = .next { s with rxState := .frame }) ∧
      (∀ w, w ≠ 0xC0#8 → classify s.rxState w = .rxJunk w ∧ exec (.rxJunk w) s = .next s ∧
        ∀ rest more, s.env.sched = .rxIn :: rest → s.env.rxIn = w :: more →
          step s = .next { s with env := { s.env with
            sched := rest, rxIn := more, log := s.env.log ++ [.rxIn w] } })) ∧
    (s.rxQ.cap - s.rxQ.items.length = 0 →
      exec .rxOpen s = .next s ∧ ∀ w, w ≠ 0xC0#8 → exec (.rxJunk w) s = .next s)

/-- R103, R104, R105: the symbols of `RX_FRAME`, enabled and held. -/
def Obligations.FrameSymbolResults : Prop :=
  ∀ s : State, s.rxState = .frame →
    (1 ≤ s.rxQ.cap - s.rxQ.items.length →
      (classify s.rxState 0xC0#8 = .rxClose ∧
        exec .rxClose s = .next { s with rxQ := ⟨s.rxQ.cap, s.rxQ.items ++ [0x200#10]⟩, rxState := .idle }) ∧
      (classify s.rxState 0xDB#8 = .rxEsc ∧ exec .rxEsc s = .next { s with rxState := .esc }) ∧
      (∀ w : Byte, w ≠ 0xC0#8 → w ≠ 0xDB#8 → classify s.rxState w = .rxLit w ∧
        exec (.rxLit w) s = .next { s with rxQ := ⟨s.rxQ.cap, s.rxQ.items ++ [mkTok 0b00#2 w]⟩ })) ∧
    (s.rxQ.cap - s.rxQ.items.length = 0 →
      exec .rxClose s = .next s ∧ exec .rxEsc s = .next s ∧
      ∀ w, w ≠ 0xC0#8 → w ≠ 0xDB#8 → exec (.rxLit w) s = .next s)

/-- R106 to R109, R156: the symbols of `RX_ESC`, the two framing errors among them, enabled and held. -/
def Obligations.EscapeSymbolResults : Prop :=
  ∀ s : State, s.rxState = .esc →
    (1 ≤ s.rxQ.cap - s.rxQ.items.length →
      (classify s.rxState 0xDC#8 = .rxUnescDelim ∧ exec .rxUnescDelim s
        = .next { s with rxQ := ⟨s.rxQ.cap, s.rxQ.items ++ [0x0C0#10]⟩, rxState := .frame }) ∧
      (classify s.rxState 0xDD#8 = .rxUnescEsc ∧ exec .rxUnescEsc s
        = .next { s with rxQ := ⟨s.rxQ.cap, s.rxQ.items ++ [0x0DB#10]⟩, rxState := .frame }) ∧
      (classify s.rxState 0xC0#8 = .rxTrunc ∧ exec .rxTrunc s
        = .next { s with rxQ := ⟨s.rxQ.cap, s.rxQ.items ++ [0x301#10]⟩, rxState := .idle }) ∧
      (∀ w, w ≠ 0xDC#8 → w ≠ 0xDD#8 → w ≠ 0xC0#8 → classify s.rxState w = .rxBadEsc w ∧ exec (.rxBadEsc w) s
        = .next { s with rxQ := ⟨s.rxQ.cap, s.rxQ.items ++ [0x302#10]⟩, rxState := .drop })) ∧
    (s.rxQ.cap - s.rxQ.items.length = 0 →
      exec .rxUnescDelim s = .next s ∧ exec .rxUnescEsc s = .next s ∧ exec .rxTrunc s = .next s ∧
      ∀ w, w ≠ 0xDC#8 → w ≠ 0xDD#8 → w ≠ 0xC0#8 → exec (.rxBadEsc w) s = .next s)

/-- R110, R111: the symbols of `RX_DROP`, enabled and held; a skipped byte leaves its sender and changes nothing. -/
def Obligations.DropSymbolResults : Prop :=
  ∀ s : State, s.rxState = .drop →
    (1 ≤ s.rxQ.cap - s.rxQ.items.length →
      (classify s.rxState 0xC0#8 = .rxDropEnd ∧ exec .rxDropEnd s = .next { s with rxState := .idle }) ∧
      (∀ w, w ≠ 0xC0#8 → classify s.rxState w = .rxDropSkip w ∧ exec (.rxDropSkip w) s = .next s ∧
        ∀ rest more, s.env.sched = .rxIn :: rest → s.env.rxIn = w :: more →
          step s = .next { s with env := { s.env with
            sched := rest, rxIn := more, log := s.env.log ++ [.rxIn w] } })) ∧
    (s.rxQ.cap - s.rxQ.items.length = 0 →
      exec .rxDropEnd s = .next s ∧ ∀ w, w ≠ 0xC0#8 → exec (.rxDropSkip w) s = .next s)

/-- R100, R31, R30: `rx_in_ready` is 1 exactly when a token is free; a byte on `rx_in` is held while `rx_q` is
full, and the sender keeps offering it.  That exec answers the same state then for every wire symbol, also for one
that no byte is in `rx_state`, is the model's reading (log entry 7, DEDUCED: readiness is looked at before the
symbol). -/
def Obligations.RxInHeldKeepsOffer : Prop :=
  (∀ s : State, (s.outputs false).rxInReady = true ↔ 1 ≤ s.rxQ.cap - s.rxQ.items.length) ∧
  (∀ (i : Instr) (s : State), portOf i = .rxIn → s.rxQ.cap - s.rxQ.items.length = 0 → exec i s = .next s) ∧
  (∀ (s : State) (rest : List Event), s.env.sched = .rxIn :: rest → s.rxQ.cap - s.rxQ.items.length = 0 →
    step s = .next { s with env := { s.env with sched := rest } })

/-- Log entry 6 (the model's choice, from R62 and R112): `exec` refuses a row by name exactly where the unit could
take a datum and no datum it can hold in that state is that row; nothing else is ever refused, and nothing
faults. -/
def Obligations.OnlyForeignSymbolsRefused : Prop :=
  ∀ (i : Instr) (s : State),
    ((∃ r, exec i s = .refused r) ↔
      (portOf i = .rxIn ∧ 1 ≤ s.rxQ.cap - s.rxQ.items.length ∧ ∀ w, classify s.rxState w ≠ i) ∨
      (portOf i = .rxOut ∧ ∃ t ts, s.rxQ.items = t :: ts ∧ decodeRxOut t ≠ .instr i)) ∧
    (∀ r, exec i s = .refused r → r = .notThatSymbol) ∧
    (∀ r, exec i s ≠ .fault r)

/-- R113: the transition table of DEC is what its symbols do; RX.POP changes `rx_state` in no row, and no byte
but `DELIM` moves DEC into or out of `RX_IDLE`. -/
def Obligations.DecoderFollowsTable : Prop :=
  (∀ (w : Byte) (s : State), 1 ≤ s.rxQ.cap - s.rxQ.items.length →
    exec (classify s.rxState w) s = .next { s with
      rxQ := ⟨s.rxQ.cap, s.rxQ.items ++ (Codec.decRow s.rxState w).1.toList⟩
      rxState := (Codec.decRow s.rxState w).2 }) ∧
  (∀ s : State, s.popRx.rxState = s.rxState) ∧
  (∀ (st : RxState) (w : Byte), w ≠ Config.delim → ((Codec.decRow st w).2 = .idle ↔ st = .idle))

/-- Log entry 8 (the model's reading, DEDUCED from R69 and R112): exec of an `rx_out` row, whose direction in the
table is out, is the RX.POP that delivers its token from the head of `rx_q`; with `rx_q` empty it answers the same
state, nothing being delivered (log entry 7). -/
def Obligations.DeliveredTokenResults : Prop :=
  (∀ (b : Byte) (s : State) (ts : List Token), s.rxQ.items = mkTok 0b00#2 b :: ts →
    exec (.data b) s = .next { s with
      rxQ := ⟨s.rxQ.cap, ts⟩, env := { s.env with log := s.env.log ++ [.rxOut (mkTok 0b00#2 b)] } }) ∧
  (∀ (s : State) (ts : List Token), s.rxQ.items = 0x200#10 :: ts →
    exec .eof s = .next { s with
      rxQ := ⟨s.rxQ.cap, ts⟩, env := { s.env with log := s.env.log ++ [.rxOut 0x200#10] } }) ∧
  (∀ (s : State) (ts : List Token), s.rxQ.items = 0x301#10 :: ts →
    exec .errTrunc s = .next { s with
      rxQ := ⟨s.rxQ.cap, ts⟩, env := { s.env with log := s.env.log ++ [.rxOut 0x301#10] } }) ∧
  (∀ (s : State) (ts : List Token), s.rxQ.items = 0x302#10 :: ts →
    exec .errBadEsc s = .next { s with
      rxQ := ⟨s.rxQ.cap, ts⟩, env := { s.env with log := s.env.log ++ [.rxOut 0x302#10] } }) ∧
  (∀ (i : Instr) (s : State), portOf i = .rxOut → s.rxQ.items = [] → exec i s = .next s)

/-- R112: RX.POP delivers the oldest token of `rx_q`, which `rx_out` shows as valid and which has one of the forms
of R69 where `rx_q` holds no other, and delivers nothing when `rx_q` is empty and `rx_out_valid` is 0. -/
def Obligations.RxPopDeliversOldestToken : Prop :=
  ∀ (s : State) (rest : List Event), s.env.sched = .rxOut :: rest →
    (∀ t ts, s.rxQ.items = t :: ts →
      step s = .next { s with
        rxQ := ⟨s.rxQ.cap, ts⟩
        env := { s.env with sched := rest, log := s.env.log ++ [.rxOut t] } } ∧
      (s.TokensProduced → Produced t) ∧
      (s.outputs false).rxOutValid = true ∧ (s.outputs false).rxOutTok = some t) ∧
    (s.rxQ.items = [] → step s = .next { s with env := { s.env with sched := rest } } ∧
      (s.outputs false).rxOutValid = false)

/-- R153: only RX.TRUNC and RX.BADESC push an `ERR` token, with codes `0x01` and `0x02`. -/
def Obligations.OnlyTwoSymbolsRaise : Prop :=
  ∀ (i : Instr) (s t : State) (c : Byte), exec i s = .next t →
    t.rxQ.items = s.rxQ.items ++ [mkTok 0b11#2 c] →
    (i = .rxTrunc ∧ c = 0x01#8) ∨ ((∃ w, i = .rxBadEsc w) ∧ c = 0x02#8)

/-- R50, R121: over any run without a reset edge, what has been delivered on `rx_out` and what is still queued are
what was queued before followed by what the accepted bytes push, in order, at every depth and with pops at any
moments. -/
def Obligations.DecoderRunIsDepthIndependent : Prop :=
  ∀ (n : Nat) (s t : State) (h : List Happening),
    Host.Core.run Sys2Proof.core n s = .next t → t.env.log = s.env.log ++ h → .reset ∉ h →
    (rxOutOf h ++ t.rxQ.items = s.rxQ.items ++ (Codec.decRun s.rxState (rxInOf h)).1 ∧
      t.rxState = (Codec.decRun s.rxState (rxInOf h)).2) ∧
    rxOutOf h <+: s.rxQ.items ++ (Codec.decRun s.rxState (rxInOf h)).1 ∧
    (t.rxQ.items = [] → rxOutOf h = s.rxQ.items ++ (Codec.decRun s.rxState (rxInOf h)).1)

/-- R115: DEC takes delimiters strictly alternately, whatever stands between them: it is idle after an even
number of them; two adjacent ones from idle are an empty frame. -/
def Obligations.DelimitersAlternate : Prop :=
  (∀ ws : List Byte,
    ((Codec.decRun .idle ws).2 = .idle ↔ ws.count Config.delim % 2 = 0)) ∧
  Codec.decRun .idle [0xC0#8, 0xC0#8] = ([0x200#10], .idle)

/-- R118: `decode` gives back what `encode` was given; DEC fed an encoding pushes the payload and `EOF`; and an FCE
whose `tx_out` is connected to its own or another FCE's `rx_in` turns the tokens of `FRAME x` into the payload and
`EOF`: the run of the encoding FCE and the run of the decoding FCE may be one and the same. -/
def Obligations.DecodeOfEncodeIsPayload : Prop :=
  (∀ x : List Byte, Codec.decode (Codec.encode x) = .frame x [] ∧
    Codec.decRun .idle (Codec.encode x) = (x.map (mkTok 0b00#2) ++ [0x200#10], .idle)) ∧
  (∀ (n m : Nat) (s t u v : State) (h g : List Happening) (x : List Byte) (d : Byte),
    s.txState = .idle → s.txQ.items = [] → Host.Core.run Sys2Proof.core n s = .next t →
    t.env.log = s.env.log ++ h → .reset ∉ h → txInOf h = x.map (mkTok 0b00#2) ++ [mkTok 0b10#2 d] →
    t.txQ.items = [] →
    u.rxState = .idle → u.rxQ.items = [] → Host.Core.run Sys2Proof.core m u = .next v →
    v.env.log = u.env.log ++ g → .reset ∉ g → rxInOf g = txOutOf h →
    rxOutOf g ++ v.rxQ.items = x.map (mkTok 0b00#2) ++ [0x200#10] ∧ v.rxState = .idle)

/-- Log entry 13 (the model's event and choice, from R118 and program P3): a turn of the perfect wire is a TX.POP
and, with the byte it delivers, the symbol step of DEC, also where another sender offers a byte, which stays
offered. -/
def Obligations.WireTurnIsPopAndSymbol : Prop :=
  ∀ (s : State) (rest : List Event) (w : Byte) (ws : List Byte),
    s.env.sched = .wire :: rest → s.txQ.items = w :: ws →
    (1 ≤ s.rxQ.cap - s.rxQ.items.length →
      step s = .next { s with
        txQ := ⟨s.txQ.cap, ws⟩
        rxQ := ⟨s.rxQ.cap, s.rxQ.items ++ (Codec.decRow s.rxState w).1.toList⟩
        rxState := (Codec.decRow s.rxState w).2
        env := { s.env with sched := rest, log := s.env.log ++ [.txOut w, .rxIn w] } }) ∧
    (s.rxQ.cap - s.rxQ.items.length = 0 → step s = .next { s with env := { s.env with sched := rest } })

/-- R119: frames with junk before and between them push exactly their payloads. -/
def Obligations.JunkAndFramesPushPayloads : Prop :=
  ∀ j0 x j1 y : List Byte, Config.delim ∉ j0 → Config.delim ∉ j1 →
    Codec.decRun .idle (j0 ++ Codec.encode x ++ j1 ++ Codec.encode y)
      = (x.map (mkTok 0b00#2) ++ [0x200#10] ++ y.map (mkTok 0b00#2) ++ [0x200#10], .idle)

/-- R120: after the closing delimiter of a bad frame DEC goes on as if it were fresh: an error leaves no trace. -/
def Obligations.ErrorsLeaveNoTrace : Prop :=
  (∀ x ws : List Byte,
    Codec.decRun .idle ([Config.delim] ++ Codec.body x ++ [Config.esc, Config.delim] ++ ws)
      = (x.map (mkTok 0b00#2) ++ [0x301#10] ++ (Codec.decRun .idle ws).1, (Codec.decRun .idle ws).2)) ∧
  (∀ (x dropped ws : List Byte) (w : Byte), w ≠ Config.escDelim → w ≠ Config.escEsc → w ≠ Config.delim →
    Config.delim ∉ dropped →
    Codec.decRun .idle ([Config.delim] ++ Codec.body x ++ [Config.esc, w] ++ dropped ++ [Config.delim] ++ ws)
      = (x.map (mkTok 0b00#2) ++ [0x302#10] ++ (Codec.decRun .idle ws).1, (Codec.decRun .idle ws).2))

/-- R122: how many tokens bytes and whole good frames push. -/
def Obligations.TokensPerFrame : Prop :=
  (∀ (st : RxState) (w : Byte), (Codec.decRun st [w]).1.length ≤ 1) ∧
  (∀ x : List Byte,
    let m := (Codec.encode x).length
    let e := x.countP (fun b => b == Config.delim || b == Config.esc)
    let k := (Codec.decRun .idle (Codec.encode x)).1.length
    (Codec.decRun .idle (Codec.encode x)).1 = x.map (mkTok 0b00#2) ++ [0x200#10] ∧ x.length = m - 2 - e ∧
    k = (m - 2 - e) + 1 ∧ (m - 2 + 1) / 2 + 1 ≤ k ∧ k ≤ m - 1)

/-- R123, R117: what `decode` accepts as a frame is exactly an encoding, after junk and before the rest. -/
def Obligations.DecodeAcceptsOnlyEncodings : Prop :=
  ∀ s p rest : List Byte, Codec.decode s = .frame p rest ↔
    ∃ junk, Config.delim ∉ junk ∧ s = junk ++ Codec.encode p ++ rest

/-- R117: `decode` is read off the token stream of DEC: no terminator, an `EOF`, or one of the two errors, and the
rest of the input after the closing delimiter. -/
def Obligations.DecodeReadsTokenStream : Prop :=
  ∀ s : List Byte,
    (Codec.decode s = .incomplete ↔ ∀ t ∈ (Codec.decRun .idle s).1, tokKind t = 0b00#2) ∧
    (∀ p rest : List Byte, Codec.decode s = .frame p rest ↔
      ∃ pre, s = pre ++ rest ∧ pre.getLast? = some Config.delim ∧
        Codec.decRun .idle pre = (p.map (mkTok 0b00#2) ++ [0x200#10], .idle)) ∧
    (∀ (c : Byte) (rest : List Byte), Codec.decode s = .error c rest ↔
      (c = 0x01#8 ∧ ∃ pre p : List Byte, s = pre ++ rest ∧ pre.getLast? = some Config.delim ∧
        Codec.decRun .idle pre = (p.map (mkTok 0b00#2) ++ [0x301#10], .idle)) ∨
      (c = 0x02#8 ∧ ∃ pre p post : List Byte, s = pre ++ post ∧ rest = Codec.afterDelim post ∧
        Codec.decRun .idle pre = (p.map (mkTok 0b00#2) ++ [0x302#10], .drop)))

/-- R114: the host's records are the results of `decode`, one after the other. -/
def Obligations.RecordsAreDecodeResults : Prop :=
  ∀ s : List Byte,
    (∀ p rest, Codec.decode s = .frame p rest →
      Codec.records (Codec.decRun .idle s).1
        = (.good p :: (Codec.records (Codec.decRun .idle rest).1).1, (Codec.records (Codec.decRun .idle rest).1).2)) ∧
    (∀ c rest, Codec.decode s = .error c rest →
      Codec.records (Codec.decRun .idle s).1
        = (.bad c :: (Codec.records (Codec.decRun .idle rest).1).1, (Codec.records (Codec.decRun .idle rest).1).2)) ∧
    (Codec.decode s = .incomplete → (Codec.records (Codec.decRun .idle s).1).1 = [])

/-- R180: a decoder out of phase reads every further frame as the end of one frame, junk, and the start of
another: it delivers one empty record a frame and stays out of phase. -/
def Obligations.PhaseStaysInverted : Prop :=
  ∀ xs : List (List Byte),
    Codec.decRun .frame (xs.flatMap Codec.encode) = (List.replicate xs.length 0x200#10, .frame)

/-! ### The checksum engine (42_checksum.md) -/

/-- R131, R132, R133, R134: the four tokens of CKS, always enabled. -/
def Obligations.ChecksumTokenResults : Prop :=
  ∀ (b : Byte) (s : State),
    (decodeCkIn (mkTok 0b00#2 b) = .ckData b ∧ exec (.ckData b) s = .next { s with ckAcc := s.ckAcc ^^^ b }) ∧
    (decodeCkIn (mkTok 0b01#2 b) = .ckInit b ∧ exec (.ckInit b) s = .next { s with ckAcc := s.ckSeed }) ∧
    (decodeCkIn (mkTok 0b10#2 b) = .ckZero b ∧ exec (.ckZero b) s = .next { s with ckAcc := 0x00#8 }) ∧
    (decodeCkIn (mkTok 0b11#2 b) = .ckSeed b ∧ exec (.ckSeed b) s = .next { s with ckSeed := b })

/-- R135, R142: CK.READ returns `ck_acc` and changes nothing, and `ck_seed_o` is sampled the same way; after
CK.ZERO with no CK.DATA and no CK.INIT after it, `ck_acc` is zero whatever the seed is. -/
def Obligations.ChecksumReadReturnsAccumulator : Prop :=
  (∀ (s : State) (rest : List Event),
    (s.env.sched = .sample .ckOut :: rest → step s = .next { s with env := { s.env with
      sched := rest, log := s.env.log ++ [.sampled (.ckOut s.ckAcc)] } }) ∧
    (s.env.sched = .sample .ckSeedO :: rest → step s = .next { s with env := { s.env with
      sched := rest, log := s.env.log ++ [.sampled (.ckSeedO s.ckSeed)] } })) ∧
  (∀ (n : Nat) (s t : State) (h : List Happening) (before after : List Token) (d : Byte),
    Host.Core.run Sys2Proof.core n s = .next t → t.env.log = s.env.log ++ h → .reset ∉ h →
    ckInOf h = before ++ mkTok 0b10#2 d :: after → (∀ u ∈ after, tokKind u = 0b10#2 ∨ tokKind u = 0b11#2) →
    t.ckAcc = 0x00#8)

/-- R137: after `CK.INIT` and the data tokens of a payload, with no other `ck_in` token between, the accumulator
is the checksum of the payload from the seed; the source's vector gives `0xEF`. -/
def Obligations.ChecksumOfPayload : Prop :=
  (∀ (n : Nat) (s t : State) (h : List Happening) (x : List Byte) (d : Byte),
    Host.Core.run Sys2Proof.core n s = .next t → t.env.log = s.env.log ++ h → .reset ∉ h →
    ckInOf h = mkTok 0b01#2 d :: x.map (mkTok 0b00#2) →
    t.ckAcc = x.foldl (· ^^^ ·) s.ckSeed ∧ t.ckAcc = Codec.ck s.ckSeed x ∧ t.ckSeed = s.ckSeed) ∧
  Codec.ck 0xEF#8 [0x01#8, 0x02#8, 0x03#8] = 0xEF#8

/-- R138: the order of the payload's bytes does not matter. -/
def Obligations.ChecksumIsOrderIndependent : Prop :=
  (∀ (s : Byte) (x y : List Byte), x.Perm y → Codec.ck s x = Codec.ck s y) ∧
  (∀ (s : Byte) (x : List Byte), Codec.ck s x = s ^^^ Codec.ck 0x00#8 x)

/-- R139: CK.DATA is an involution, and bytes that occur an even number of times cancel. -/
def Obligations.ChecksumBytesCancel : Prop :=
  (∀ (b : Byte) (s t : State), exec (.ckData b) s = .next t → exec (.ckData b) t = .next s) ∧
  (∀ (s : Byte) (x : List Byte), (∀ b, x.count b % 2 = 0) → Codec.ck s x = s) ∧
  (∀ s : Byte, Codec.ck s ((List.range 256).map (BitVec.ofNat 8)) = s)

/-- R140, R141: a checksum can be continued, and a new seed does not touch the one in progress. -/
def Obligations.ChecksumContinues : Prop :=
  (∀ (s : Byte) (x y : List Byte), Codec.ck s (x ++ y) = Codec.ck (Codec.ck s x) y) ∧
  (∀ (n : Nat) (s t : State) (h : List Happening) (x y : List Byte) (d u : Byte),
    Host.Core.run Sys2Proof.core n s = .next t → t.env.log = s.env.log ++ h → .reset ∉ h →
    ckInOf h = mkTok 0b01#2 d :: (x.map (mkTok 0b00#2) ++ mkTok 0b11#2 u :: y.map (mkTok 0b00#2)) →
    t.ckAcc = Codec.ck s.ckSeed (x ++ y) ∧ t.ckSeed = u ∧
    ∀ e : Byte, exec (.ckInit e) t = .next { t with ckAcc := u })

/-- R144: what the checksum detects and what it does not. -/
def Obligations.ChecksumDetection : Prop :=
  (∀ (s a b : Byte) (p q : List Byte), Codec.ck s (p ++ a :: q) = Codec.ck s (p ++ b :: q) → a = b) ∧
  (∀ (s : Byte) (x y : List Byte), x.Perm y → Codec.ck s x = Codec.ck s y) ∧
  (∀ (s a b d : Byte) (p q r : List Byte),
    Codec.ck s (p ++ (a ^^^ d) :: q ++ (b ^^^ d) :: r) = Codec.ck s (p ++ a :: q ++ b :: r)) ∧
  (∀ (s a : Byte) (p q r : List Byte), Codec.ck s (p ++ a :: q ++ a :: r) = Codec.ck s (p ++ q ++ r)) ∧
  (∀ (s : Byte) (p q : List Byte), Codec.ck s (p ++ 0x00#8 :: q) = Codec.ck s (p ++ q))

/-! ### The whole machine -/

/-- R34 (its "written by" column), R2: the frame of every instruction.  Each item of state changes only under the
instructions that write it, the depths never change, and the environment only under a delivery (log entry 8), which
adds the delivered token to the record. -/
def Obligations.FrameOfEveryInstruction : Prop :=
  ∀ (i : Instr) (s t : State), exec i s = .next t →
    (t.txState ≠ s.txState → (∃ b, i = .txData b) ∨ ∃ d, i = .txEof d) ∧
    (t.txQ ≠ s.txQ → (∃ b, i = .txData b) ∨ ∃ d, i = .txEof d) ∧
    (t.rxState ≠ s.rxState → portOf i = .rxIn) ∧
    (t.rxQ ≠ s.rxQ → portOf i = .rxIn ∨ portOf i = .rxOut) ∧
    (t.ckAcc ≠ s.ckAcc → (∃ b, i = .ckData b) ∨ (∃ d, i = .ckInit d) ∨ ∃ d, i = .ckZero d) ∧
    (t.ckSeed ≠ s.ckSeed → ∃ b, i = .ckSeed b) ∧
    t.txQ.cap = s.txQ.cap ∧ t.rxQ.cap = s.rxQ.cap ∧
    (t.env = s.env ∨ (portOf i = .rxOut ∧ ∃ u us, s.rxQ.items = u :: us ∧
      t.env = { s.env with log := s.env.log ++ [.rxOut u] }))

/-- R31, R51: instructions of two different units commute. -/
def Obligations.UnitsCommute : Prop :=
  ∀ (i j : Instr) (s a b : State),
    ((portOf i = .txIn ↔ portOf j ≠ .txIn) ∨ (portOf i = .ckIn ↔ portOf j ≠ .ckIn)) →
    exec i s = .next a → exec j a = .next b →
    ∃ c, exec j s = .next c ∧ exec i c = .next b

/-- R31: a push and a pop of the same queue give the same state in either order, when both are enabled. -/
def Obligations.PushAndPopCommute : Prop :=
  (∀ (t : Token) (s a : State), 3 ≤ s.txQ.cap - s.txQ.items.length → s.txQ.items ≠ [] →
    exec (decodeTxIn t) s = .next a → exec (decodeTxIn t) s.popTx = .next a.popTx) ∧
  (∀ (w : Byte) (s a : State), 1 ≤ s.rxQ.cap - s.rxQ.items.length → s.rxQ.items ≠ [] →
    exec (classify s.rxState w) s = .next a → exec (classify s.rxState w) s.popRx = .next a.popRx)

/-- R70 (c), R130, R153, R30: every 10-bit value on `tx_in` and on `ck_in` is accepted by a ready port, `ck_in`
always being ready, and its instruction runs: the step answers the state that the row of the token in the tables
of ENC and CKS gives. -/
def Obligations.EveryTokenAccepted : Prop :=
  ∀ (t : Token) (s : State) (rest : List Event) (more : List Token),
    (s.env.sched = .txIn :: rest → s.env.txIn = t :: more → 3 ≤ s.txQ.cap - s.txQ.items.length →
      step s = .next { s with
        txQ := ⟨s.txQ.cap, s.txQ.items ++ (Codec.encRow s.txState t).1⟩
        txState := (Codec.encRow s.txState t).2
        env := { s.env with sched := rest, txIn := more, log := s.env.log ++ [.txIn t] } }) ∧
    (s.outputs false).ckInReady = true ∧
    (s.env.sched = .ckIn :: rest → s.env.ckIn = t :: more →
      step s = .next { s with
        ckAcc := (Codec.ckRow (s.ckAcc, s.ckSeed) t).1
        ckSeed := (Codec.ckRow (s.ckAcc, s.ckSeed) t).2
        env := { s.env with sched := rest, ckIn := more, log := s.env.log ++ [.ckIn t] } })

/-- R153, R62: in every state and whatever is offered, the machine takes its step: nothing stops it. -/
def Obligations.StepNeverStops : Prop := ∀ s : State, ∃ t, step s = .next t

/-- R31: where a port's datum is transferred, step is exec of the instruction that the datum decodes to, on the
state in which the turn is used up and the datum has left the sender.  That on `rx_out` it is exec of the row that
the head of `rx_q` decodes to is the model's reading (log entry 8, DEDUCED). -/
def Obligations.StepRunsDecodedInstruction : Prop :=
  ∀ (s : State) (rest : List Event),
    (∀ t more, s.env.sched = .txIn :: rest → s.env.txIn = t :: more → 3 ≤ s.txQ.cap - s.txQ.items.length →
      step s = exec (decodeTxIn t) { s with env := { s.env with
        sched := rest, txIn := more, log := s.env.log ++ [.txIn t] } }) ∧
    (∀ w more, s.env.sched = .rxIn :: rest → s.env.rxIn = w :: more → 1 ≤ s.rxQ.cap - s.rxQ.items.length →
      step s = exec (classify s.rxState w) { s with env := { s.env with
        sched := rest, rxIn := more, log := s.env.log ++ [.rxIn w] } }) ∧
    (∀ t more, s.env.sched = .ckIn :: rest → s.env.ckIn = t :: more →
      step s = exec (decodeCkIn t) { s with env := { s.env with
        sched := rest, ckIn := more, log := s.env.log ++ [.ckIn t] } }) ∧
    (∀ t ts i, s.env.sched = .rxOut :: rest → s.rxQ.items = t :: ts → decodeRxOut t = .instr i →
      step s = exec i { s with env := { s.env with sched := rest } })

/-- R50, R88, R113, R131 to R134: every step keeps the state of the three units what the transfers since reset make
it. -/
def Obligations.StepFollowsTransfers : Prop :=
  ∀ s t : State, s.Follows → step s = .next t → t.Follows

/-- R35 (a), (b) and R50 at reset: the invariants that every step keeps hold there. -/
def Obligations.ResetMeetsInvariants : Prop :=
  State.reset.QueuesFit ∧ State.reset.TokensProduced ∧ State.reset.Follows

/-- R35 (a), (b), R12, R33: every step keeps the queues within their capacities and `rx_q` free of other than
produced tokens, and no step changes a depth. -/
def Obligations.StepKeepsQueueInvariants : Prop :=
  ∀ s t : State, step s = .next t →
    (s.QueuesFit → t.QueuesFit) ∧ (s.TokensProduced → t.TokensProduced) ∧
    t.txQ.cap = s.txQ.cap ∧ t.rxQ.cap = s.rxQ.cap

/-- R35 (c): of the bytes ENC has pushed since reset, an even number are `DELIM` exactly when it is idle. -/
def Obligations.EncoderDelimiterParity : Prop :=
  ∀ s : State, s.EncFollows →
    ((txOutOf (sinceReset s.env.log) ++ s.txQ.items).count Config.delim % 2 = 0 ↔ s.txState = .idle)

/-- R35 (d): DEC leaves `RX_IDLE` and returns to it only on a `DELIM` byte, or at a reset edge. -/
def Obligations.IdleCrossedOnlyByDelim : Prop :=
  ∀ s t : State, step s = .next t → (s.rxState = .idle ↔ t.rxState ≠ .idle) →
    ∃ h, t.env.log = s.env.log ++ h ∧ (h.getLast? = some (.rxIn Config.delim) ∨ h = [.reset])

/-! ### Encodings (30_encoding.md) -/

/-- R62, R67, R68, R69: words written out from the tables decode to the instructions they stand for. -/
def Obligations.SampleWordsDecode : Prop :=
  decode .rxIn .idle .w8 0x00C0#16 = .instr .rxOpen ∧ decode .rxIn .frame .w8 0x00DC#16 = .instr (.rxLit 0xDC#8) ∧
  decode .rxIn .esc .w16 0xDBDC#16 = .instr .rxUnescDelim ∧ decode .rxIn .esc .w16 0xDBC0#16 = .instr .rxTrunc ∧
  decode .rxIn .esc .w16 0xDBDB#16 = .instr (.rxBadEsc 0xDB#8) ∧
  decode .txIn .idle .t10 0x0041#16 = .instr (.txData 0x41#8) ∧
  decode .txIn .idle .t10 0x02AA#16 = .instr (.txEof 0xAA#8) ∧
  decode .ckIn .idle .t10 0x035A#16 = .instr (.ckSeed 0x5A#8) ∧
  decode .rxOut .idle .t10 0x0302#16 = .instr .errBadEsc ∧ decode .rxOut .idle .t10 0x0303#16 = .reject .neverProduced

/-- R60, R62, R67, R68, R69: every well-formed instruction, with every operand, is decoded from its encoding. -/
def Obligations.DecodeOfEncodeIsInstruction : Prop :=
  ∀ (i : Instr) (st : RxState), i.wellFormed = true → (rxStateOf i = none ∨ rxStateOf i = some st) →
    decode (portOf i) st (formatOf i) (encode i) = .instr i

/-- R62, R67, R68, R69: a word decodes to no instruction but the one whose encoding it is. -/
def Obligations.EncodeOfDecodeIsWord : Prop :=
  ∀ (p : Port) (st : RxState) (f : Format) (v : BitVec 16) (i : Instr), decode p st f v = .instr i →
    encode i = v ∧ portOf i = p ∧ formatOf i = f ∧ i.wellFormed = true ∧
    (rxStateOf i = none ∨ rxStateOf i = some st)

/-- R72: the decoder answers what the opcode table selects, and nothing where it selects no row; exact-match rows
of one port and state never overlap. -/
def Obligations.DecoderFollowsOpcodeTable : Prop :=
  (∀ (p : Port) (st : RxState) (f : Format) (v : BitVec 16),
    (∀ i, decode p st f v = .instr i → ∃ r, tableLookup p st f v = some r ∧ r.mnemonic = mnemonicOf i) ∧
    (∀ e, decode p st f v = .reject e → tableLookup p st f v = none)) ∧
  (∀ r ∈ opcodeTable, ∀ q ∈ opcodeTable, ∀ v : BitVec 16,
    r.port = q.port → r.rxState = q.rxState → r.priority = 1 → q.priority = 1 →
    r.selects v = true → q.selects v = true → r.format = q.format → r = q)
end

