-- ==== Sys2Proof/Laws/Decode.lean ====
section
/-! SUPPORT. The small lemmas of the framing parameters, the token fields and the classification. -/

namespace Sys2Proof

/-! ### The framing parameters are pairwise distinct (00_scope.md R9) -/

@[simp] theorem Config.delim_ne_esc : Config.delim ≠ Config.esc := by decide
@[simp] theorem Config.esc_ne_delim : Config.esc ≠ Config.delim := by decide
@[simp] theorem Config.escDelim_ne_escEsc : Config.escDelim ≠ Config.escEsc := by decide
@[simp] theorem Config.escEsc_ne_escDelim : Config.escEsc ≠ Config.escDelim := by decide
@[simp] theorem Config.escDelim_ne_delim : Config.escDelim ≠ Config.delim := by decide
@[simp] theorem Config.delim_ne_escDelim : Config.delim ≠ Config.escDelim := by decide
@[simp] theorem Config.escDelim_ne_esc : Config.escDelim ≠ Config.esc := by decide
@[simp] theorem Config.esc_ne_escDelim : Config.esc ≠ Config.escDelim := by decide
@[simp] theorem Config.escEsc_ne_delim : Config.escEsc ≠ Config.delim := by decide
@[simp] theorem Config.delim_ne_escEsc : Config.delim ≠ Config.escEsc := by decide
@[simp] theorem Config.escEsc_ne_esc : Config.escEsc ≠ Config.esc := by decide
@[simp] theorem Config.esc_ne_escEsc : Config.esc ≠ Config.escEsc := by decide

/-! ### Token fields (R66) -/

@[simp] theorem tokKind_mkTok (k : BitVec 2) (d : Byte) : tokKind (mkTok k d) = k := by
  revert k d; unfold tokKind mkTok; decide

@[simp] theorem tokData_mkTok (k : BitVec 2) (d : Byte) : tokData (mkTok k d) = d := by
  revert k d; unfold tokData mkTok; decide

/-- A token is its two fields. -/
theorem mkTok_fields (t : Token) : mkTok (tokKind t) (tokData t) = t := by
  revert t; unfold tokKind tokData mkTok; decide

/-- Every 2-bit kind is one of the four. -/
theorem kind_cases (k : BitVec 2) : k = 0b00#2 ∨ k = 0b01#2 ∨ k = 0b10#2 ∨ k = 0b11#2 := by
  revert k; decide

@[simp] theorem Machine.tokKind_dataTok (b : Byte) : tokKind (Machine.dataTok b) = 0b00#2 := tokKind_mkTok _ _
@[simp] theorem Machine.tokData_dataTok (b : Byte) : tokData (Machine.dataTok b) = b := tokData_mkTok _ _
@[simp] theorem Machine.tokKind_eofTok : tokKind Machine.eofTok = 0b10#2 := tokKind_mkTok _ _
@[simp] theorem Machine.tokKind_errTok (c : Byte) : tokKind (Machine.errTok c) = 0b11#2 := tokKind_mkTok _ _
@[simp] theorem Machine.tokData_errTok (c : Byte) : tokData (Machine.errTok c) = c := tokData_mkTok _ _

/-! ### A word's two bytes (W8, W16) and its token (T10) (R60) -/

theorem word_eq_bytes (v : BitVec 16) :
    v = ((v.extractLsb' 8 8 : BitVec 8) ++ (v.extractLsb' 0 8 : BitVec 8) : BitVec 16) := by
  rw [BitVec.extractLsb'_append_extractLsb'_eq_extractLsb' (by rfl)]; simp

theorem word_eq_token (v : BitVec 16) :
    v = ((v.extractLsb' 10 6 : BitVec 6) ++ (v.extractLsb' 0 10 : Token) : BitVec 16) := by
  rw [BitVec.extractLsb'_append_extractLsb'_eq_extractLsb' (by rfl)]; simp

theorem high_byte_append (a b : BitVec 8) : (a ++ b : BitVec 16).extractLsb' 8 8 = a := by
  rw [BitVec.extractLsb'_append_eq_of_le] <;> simp

theorem low_byte_append (a b : BitVec 8) : (a ++ b : BitVec 16).extractLsb' 0 8 = b := by
  rw [BitVec.extractLsb'_append_eq_of_add_le] <;> simp

theorem above_token_append (a : BitVec 6) (t : Token) : (a ++ t : BitVec 16).extractLsb' 10 6 = a := by
  rw [BitVec.extractLsb'_append_eq_of_le] <;> simp

theorem token_append (a : BitVec 6) (t : Token) : (a ++ t : BitVec 16).extractLsb' 0 10 = t := by
  rw [BitVec.extractLsb'_append_eq_of_add_le] <;> simp

/-! ### Tokens in (R67, R68) -/

theorem decodeTxIn_data (b : Byte) : decodeTxIn (mkTok 0b00#2 b) = .txData b := by simp [decodeTxIn]
theorem decodeTxIn_rsvd1 (d : Byte) : decodeTxIn (mkTok 0b01#2 d) = .txRsvd1 d := by simp [decodeTxIn]
theorem decodeTxIn_eof (d : Byte) : decodeTxIn (mkTok 0b10#2 d) = .txEof d := by simp [decodeTxIn]
theorem decodeTxIn_rsvd3 (d : Byte) : decodeTxIn (mkTok 0b11#2 d) = .txRsvd3 d := by simp [decodeTxIn]

theorem decodeCkIn_data (b : Byte) : decodeCkIn (mkTok 0b00#2 b) = .ckData b := by simp [decodeCkIn]
theorem decodeCkIn_init (d : Byte) : decodeCkIn (mkTok 0b01#2 d) = .ckInit d := by simp [decodeCkIn]
theorem decodeCkIn_zero (d : Byte) : decodeCkIn (mkTok 0b10#2 d) = .ckZero d := by simp [decodeCkIn]
theorem decodeCkIn_seed (b : Byte) : decodeCkIn (mkTok 0b11#2 b) = .ckSeed b := by simp [decodeCkIn]

/-! ### Tokens out (R69) -/

/-- The four forms of R69 are what the decoder of `rx_out` accepts. -/
theorem decodeRxOut_eq_instr (t : Token) (i : Instr) (h : decodeRxOut t = .instr i) :
    (∃ b, t = Machine.dataTok b ∧ i = .data b) ∨ (t = Machine.eofTok ∧ i = .eof) ∨
      (t = Machine.errTok 0x01#8 ∧ i = .errTrunc) ∨ (t = Machine.errTok 0x02#8 ∧ i = .errBadEsc) := by
  simp only [decodeRxOut] at h
  split at h
  · rename_i hk
    refine .inl ⟨tokData t, ?_, by cases h; rfl⟩
    rw [Machine.dataTok, ← hk, mkTok_fields]
  · split at h
    · rename_i ht; exact .inr (.inl ⟨ht.trans (by decide), by cases h; rfl⟩)
    · split at h
      · rename_i ht; exact .inr (.inr (.inl ⟨ht.trans (by decide), by cases h; rfl⟩))
      · split at h
        · rename_i ht; exact .inr (.inr (.inr ⟨ht.trans (by decide), by cases h; rfl⟩))
        · cases h

@[simp] theorem decodeRxOut_dataTok (b : Byte) : decodeRxOut (Machine.dataTok b) = .instr (.data b) := by
  simp [decodeRxOut]

@[simp] theorem decodeRxOut_eofTok : decodeRxOut Machine.eofTok = .instr .eof := by decide
@[simp] theorem decodeRxOut_errTrunc : decodeRxOut (Machine.errTok 0x01#8) = .instr .errTrunc := by decide
@[simp] theorem decodeRxOut_errBadEsc : decodeRxOut (Machine.errTok 0x02#8) = .instr .errBadEsc := by decide

end Sys2Proof
end

