-- ==== Sys2Proof/Laws/State.lean ====
section
/-! SUPPORT. One lemma per field and update of the state, true by rfl, so that no later proof unfolds a record
update. -/

namespace Sys2Proof.Machine

/-! ### `tx_state <- v` -/

@[simp] theorem State.setTxState_txState (s : State) (v : TxState) : (s.setTxState v).txState = v := rfl
@[simp] theorem State.setTxState_txQ (s : State) (v : TxState) : (s.setTxState v).txQ = s.txQ := rfl
@[simp] theorem State.setTxState_rxState (s : State) (v : TxState) : (s.setTxState v).rxState = s.rxState := rfl
@[simp] theorem State.setTxState_rxQ (s : State) (v : TxState) : (s.setTxState v).rxQ = s.rxQ := rfl
@[simp] theorem State.setTxState_ckAcc (s : State) (v : TxState) : (s.setTxState v).ckAcc = s.ckAcc := rfl
@[simp] theorem State.setTxState_ckSeed (s : State) (v : TxState) : (s.setTxState v).ckSeed = s.ckSeed := rfl
@[simp] theorem State.setTxState_env (s : State) (v : TxState) : (s.setTxState v).env = s.env := rfl

/-! ### `rx_state <- v` -/

@[simp] theorem State.setRxState_txState (s : State) (v : RxState) : (s.setRxState v).txState = s.txState := rfl
@[simp] theorem State.setRxState_txQ (s : State) (v : RxState) : (s.setRxState v).txQ = s.txQ := rfl
@[simp] theorem State.setRxState_rxState (s : State) (v : RxState) : (s.setRxState v).rxState = v := rfl
@[simp] theorem State.setRxState_rxQ (s : State) (v : RxState) : (s.setRxState v).rxQ = s.rxQ := rfl
@[simp] theorem State.setRxState_ckAcc (s : State) (v : RxState) : (s.setRxState v).ckAcc = s.ckAcc := rfl
@[simp] theorem State.setRxState_ckSeed (s : State) (v : RxState) : (s.setRxState v).ckSeed = s.ckSeed := rfl
@[simp] theorem State.setRxState_env (s : State) (v : RxState) : (s.setRxState v).env = s.env := rfl

/-! ### `ck_acc <- v` -/

@[simp] theorem State.setCkAcc_txState (s : State) (v : Byte) : (s.setCkAcc v).txState = s.txState := rfl
@[simp] theorem State.setCkAcc_txQ (s : State) (v : Byte) : (s.setCkAcc v).txQ = s.txQ := rfl
@[simp] theorem State.setCkAcc_rxState (s : State) (v : Byte) : (s.setCkAcc v).rxState = s.rxState := rfl
@[simp] theorem State.setCkAcc_rxQ (s : State) (v : Byte) : (s.setCkAcc v).rxQ = s.rxQ := rfl
@[simp] theorem State.setCkAcc_ckAcc (s : State) (v : Byte) : (s.setCkAcc v).ckAcc = v := rfl
@[simp] theorem State.setCkAcc_ckSeed (s : State) (v : Byte) : (s.setCkAcc v).ckSeed = s.ckSeed := rfl
@[simp] theorem State.setCkAcc_env (s : State) (v : Byte) : (s.setCkAcc v).env = s.env := rfl

/-! ### `ck_seed <- v` -/

@[simp] theorem State.setCkSeed_txState (s : State) (v : Byte) : (s.setCkSeed v).txState = s.txState := rfl
@[simp] theorem State.setCkSeed_txQ (s : State) (v : Byte) : (s.setCkSeed v).txQ = s.txQ := rfl
@[simp] theorem State.setCkSeed_rxState (s : State) (v : Byte) : (s.setCkSeed v).rxState = s.rxState := rfl
@[simp] theorem State.setCkSeed_rxQ (s : State) (v : Byte) : (s.setCkSeed v).rxQ = s.rxQ := rfl
@[simp] theorem State.setCkSeed_ckAcc (s : State) (v : Byte) : (s.setCkSeed v).ckAcc = s.ckAcc := rfl
@[simp] theorem State.setCkSeed_ckSeed (s : State) (v : Byte) : (s.setCkSeed v).ckSeed = v := rfl
@[simp] theorem State.setCkSeed_env (s : State) (v : Byte) : (s.setCkSeed v).env = s.env := rfl

/-! ### push on `tx_q` -/

@[simp] theorem State.pushTx_txState (s : State) (ws : List Byte) : (s.pushTx ws).txState = s.txState := rfl
@[simp] theorem State.pushTx_txQ (s : State) (ws : List Byte) : (s.pushTx ws).txQ = s.txQ.push ws := rfl
@[simp] theorem State.pushTx_rxState (s : State) (ws : List Byte) : (s.pushTx ws).rxState = s.rxState := rfl
@[simp] theorem State.pushTx_rxQ (s : State) (ws : List Byte) : (s.pushTx ws).rxQ = s.rxQ := rfl
@[simp] theorem State.pushTx_ckAcc (s : State) (ws : List Byte) : (s.pushTx ws).ckAcc = s.ckAcc := rfl
@[simp] theorem State.pushTx_ckSeed (s : State) (ws : List Byte) : (s.pushTx ws).ckSeed = s.ckSeed := rfl
@[simp] theorem State.pushTx_env (s : State) (ws : List Byte) : (s.pushTx ws).env = s.env := rfl

/-! ### push on `rx_q` -/

@[simp] theorem State.pushRx_txState (s : State) (t : Token) : (s.pushRx t).txState = s.txState := rfl
@[simp] theorem State.pushRx_txQ (s : State) (t : Token) : (s.pushRx t).txQ = s.txQ := rfl
@[simp] theorem State.pushRx_rxState (s : State) (t : Token) : (s.pushRx t).rxState = s.rxState := rfl
@[simp] theorem State.pushRx_rxQ (s : State) (t : Token) : (s.pushRx t).rxQ = s.rxQ.push [t] := rfl
@[simp] theorem State.pushRx_ckAcc (s : State) (t : Token) : (s.pushRx t).ckAcc = s.ckAcc := rfl
@[simp] theorem State.pushRx_ckSeed (s : State) (t : Token) : (s.pushRx t).ckSeed = s.ckSeed := rfl
@[simp] theorem State.pushRx_env (s : State) (t : Token) : (s.pushRx t).env = s.env := rfl

/-! ### the record -/

@[simp] theorem State.record_txState (s : State) (h : Happening) : (s.record h).txState = s.txState := rfl
@[simp] theorem State.record_txQ (s : State) (h : Happening) : (s.record h).txQ = s.txQ := rfl
@[simp] theorem State.record_rxState (s : State) (h : Happening) : (s.record h).rxState = s.rxState := rfl
@[simp] theorem State.record_rxQ (s : State) (h : Happening) : (s.record h).rxQ = s.rxQ := rfl
@[simp] theorem State.record_ckAcc (s : State) (h : Happening) : (s.record h).ckAcc = s.ckAcc := rfl
@[simp] theorem State.record_ckSeed (s : State) (h : Happening) : (s.record h).ckSeed = s.ckSeed := rfl
@[simp] theorem State.record_env (s : State) (h : Happening) : (s.record h).env = { s.env with log := s.env.log ++ [h] } := rfl

/-! ### the schedule -/

@[simp] theorem State.setSched_txState (s : State) (es : List Event) : (s.setSched es).txState = s.txState := rfl
@[simp] theorem State.setSched_txQ (s : State) (es : List Event) : (s.setSched es).txQ = s.txQ := rfl
@[simp] theorem State.setSched_rxState (s : State) (es : List Event) : (s.setSched es).rxState = s.rxState := rfl
@[simp] theorem State.setSched_rxQ (s : State) (es : List Event) : (s.setSched es).rxQ = s.rxQ := rfl
@[simp] theorem State.setSched_ckAcc (s : State) (es : List Event) : (s.setSched es).ckAcc = s.ckAcc := rfl
@[simp] theorem State.setSched_ckSeed (s : State) (es : List Event) : (s.setSched es).ckSeed = s.ckSeed := rfl
@[simp] theorem State.setSched_env (s : State) (es : List Event) : (s.setSched es).env = { s.env with sched := es } := rfl

/-! ### raising a framing error (R156) -/

@[simp] theorem State.raiseFramingError_txState (s : State) (c : Byte) (v : RxState) : (s.raiseFramingError c v).txState = s.txState := rfl
@[simp] theorem State.raiseFramingError_txQ (s : State) (c : Byte) (v : RxState) : (s.raiseFramingError c v).txQ = s.txQ := rfl
@[simp] theorem State.raiseFramingError_rxState (s : State) (c : Byte) (v : RxState) : (s.raiseFramingError c v).rxState = v := rfl
@[simp] theorem State.raiseFramingError_rxQ (s : State) (c : Byte) (v : RxState) : (s.raiseFramingError c v).rxQ = s.rxQ.push [errTok c] := rfl
@[simp] theorem State.raiseFramingError_ckAcc (s : State) (c : Byte) (v : RxState) : (s.raiseFramingError c v).ckAcc = s.ckAcc := rfl
@[simp] theorem State.raiseFramingError_ckSeed (s : State) (c : Byte) (v : RxState) : (s.raiseFramingError c v).ckSeed = s.ckSeed := rfl
@[simp] theorem State.raiseFramingError_env (s : State) (c : Byte) (v : RxState) : (s.raiseFramingError c v).env = s.env := rfl

/-! ### reset (R170) -/

@[simp] theorem State.resetEdge_txState (s : State) : (s.resetEdge).txState = .idle := rfl
@[simp] theorem State.resetEdge_txQ (s : State) : (s.resetEdge).txQ = s.txQ.clear := rfl
@[simp] theorem State.resetEdge_rxState (s : State) : (s.resetEdge).rxState = .idle := rfl
@[simp] theorem State.resetEdge_rxQ (s : State) : (s.resetEdge).rxQ = s.rxQ.clear := rfl
@[simp] theorem State.resetEdge_ckAcc (s : State) : (s.resetEdge).ckAcc = 0x00#8 := rfl
@[simp] theorem State.resetEdge_ckSeed (s : State) : (s.resetEdge).ckSeed = Config.seedReset := rfl
@[simp] theorem State.resetEdge_env (s : State) : (s.resetEdge).env = s.env := rfl

/-! ### a token leaves the sender on `tx_in` -/

@[simp] theorem State.takeTxIn_txState (s : State) (t : Token) (more : List Token) : (s.takeTxIn t more).txState = s.txState := rfl
@[simp] theorem State.takeTxIn_txQ (s : State) (t : Token) (more : List Token) : (s.takeTxIn t more).txQ = s.txQ := rfl
@[simp] theorem State.takeTxIn_rxState (s : State) (t : Token) (more : List Token) : (s.takeTxIn t more).rxState = s.rxState := rfl
@[simp] theorem State.takeTxIn_rxQ (s : State) (t : Token) (more : List Token) : (s.takeTxIn t more).rxQ = s.rxQ := rfl
@[simp] theorem State.takeTxIn_ckAcc (s : State) (t : Token) (more : List Token) : (s.takeTxIn t more).ckAcc = s.ckAcc := rfl
@[simp] theorem State.takeTxIn_ckSeed (s : State) (t : Token) (more : List Token) : (s.takeTxIn t more).ckSeed = s.ckSeed := rfl
@[simp] theorem State.takeTxIn_env (s : State) (t : Token) (more : List Token) : (s.takeTxIn t more).env = { s.env with txIn := more, log := s.env.log ++ [.txIn t] } := rfl

/-! ### a byte leaves the sender on `rx_in` -/

@[simp] theorem State.takeRxIn_txState (s : State) (w : Byte) (more : List Byte) : (s.takeRxIn w more).txState = s.txState := rfl
@[simp] theorem State.takeRxIn_txQ (s : State) (w : Byte) (more : List Byte) : (s.takeRxIn w more).txQ = s.txQ := rfl
@[simp] theorem State.takeRxIn_rxState (s : State) (w : Byte) (more : List Byte) : (s.takeRxIn w more).rxState = s.rxState := rfl
@[simp] theorem State.takeRxIn_rxQ (s : State) (w : Byte) (more : List Byte) : (s.takeRxIn w more).rxQ = s.rxQ := rfl
@[simp] theorem State.takeRxIn_ckAcc (s : State) (w : Byte) (more : List Byte) : (s.takeRxIn w more).ckAcc = s.ckAcc := rfl
@[simp] theorem State.takeRxIn_ckSeed (s : State) (w : Byte) (more : List Byte) : (s.takeRxIn w more).ckSeed = s.ckSeed := rfl
@[simp] theorem State.takeRxIn_env (s : State) (w : Byte) (more : List Byte) : (s.takeRxIn w more).env = { s.env with rxIn := more, log := s.env.log ++ [.rxIn w] } := rfl

/-! ### a token leaves the sender on `ck_in` -/

@[simp] theorem State.takeCkIn_txState (s : State) (t : Token) (more : List Token) : (s.takeCkIn t more).txState = s.txState := rfl
@[simp] theorem State.takeCkIn_txQ (s : State) (t : Token) (more : List Token) : (s.takeCkIn t more).txQ = s.txQ := rfl
@[simp] theorem State.takeCkIn_rxState (s : State) (t : Token) (more : List Token) : (s.takeCkIn t more).rxState = s.rxState := rfl
@[simp] theorem State.takeCkIn_rxQ (s : State) (t : Token) (more : List Token) : (s.takeCkIn t more).rxQ = s.rxQ := rfl
@[simp] theorem State.takeCkIn_ckAcc (s : State) (t : Token) (more : List Token) : (s.takeCkIn t more).ckAcc = s.ckAcc := rfl
@[simp] theorem State.takeCkIn_ckSeed (s : State) (t : Token) (more : List Token) : (s.takeCkIn t more).ckSeed = s.ckSeed := rfl
@[simp] theorem State.takeCkIn_env (s : State) (t : Token) (more : List Token) : (s.takeCkIn t more).env = { s.env with ckIn := more, log := s.env.log ++ [.ckIn t] } := rfl

/-! ### The queues -/

@[simp] theorem Queue.push_cap {α : Type} (q : Queue α) (vs : List α) : (q.push vs).cap = q.cap := rfl
@[simp] theorem Queue.push_items {α : Type} (q : Queue α) (vs : List α) : (q.push vs).items = q.items ++ vs := rfl
@[simp] theorem Queue.pop_cap {α : Type} (q : Queue α) : q.pop.cap = q.cap := rfl
@[simp] theorem Queue.pop_items {α : Type} (q : Queue α) : q.pop.items = q.items.tail := rfl
@[simp] theorem Queue.clear_cap {α : Type} (q : Queue α) : q.clear.cap = q.cap := rfl
@[simp] theorem Queue.clear_items {α : Type} (q : Queue α) : q.clear.items = [] := rfl

/-- A push that fits keeps the queue within its capacity. -/
theorem Queue.push_len_le {α : Type} (q : Queue α) (vs : List α) (h : vs.length ≤ q.free) (hq : q.len ≤ q.cap) :
    (q.push vs).len ≤ (q.push vs).cap := by
  simp only [Queue.len, Queue.free, Queue.push_cap, Queue.push_items, List.length_append] at *
  omega

/-- A pop keeps the queue within its capacity. -/
theorem Queue.pop_len_le {α : Type} (q : Queue α) (hq : q.len ≤ q.cap) : q.pop.len ≤ q.pop.cap := by
  simp only [Queue.len, Queue.pop_cap, Queue.pop_items, List.length_tail] at *
  omega

/-! ### Delivery -/

/-- TX.POP on an empty queue delivers nothing (R84). -/
theorem State.popTx_nil (s : State) (h : s.txQ.items = []) : s.popTx = s := by
  simp [State.popTx, h]

/-- TX.POP delivers the head (R84). -/
theorem State.popTx_cons (s : State) (w : Byte) (ws : List Byte) (h : s.txQ.items = w :: ws) :
    s.popTx = { s with txQ := ⟨s.txQ.cap, ws⟩, env := { s.env with log := s.env.log ++ [.txOut w] } } := by
  simp [State.popTx, h, State.record, Queue.pop]

/-- RX.POP on an empty queue delivers nothing (R112). -/
theorem State.popRx_nil (s : State) (h : s.rxQ.items = []) : s.popRx = s := by
  simp [State.popRx, h]

/-- RX.POP delivers the head (R112). -/
theorem State.popRx_cons (s : State) (t : Token) (ts : List Token) (h : s.rxQ.items = t :: ts) :
    s.popRx = { s with rxQ := ⟨s.rxQ.cap, ts⟩, env := { s.env with log := s.env.log ++ [.rxOut t] } } := by
  simp [State.popRx, h, State.record, Queue.pop]

/-! ### The handshake signals with `rst == 0` (R30), and with `rst == 1` (R170) -/

@[simp] theorem State.outputs_false_txInReady (s : State) : (s.outputs false).txInReady = s.txInReady := rfl
@[simp] theorem State.outputs_false_txOutValid (s : State) : (s.outputs false).txOutValid = s.txOutValid := rfl
@[simp] theorem State.outputs_false_rxInReady (s : State) : (s.outputs false).rxInReady = s.rxInReady := rfl
@[simp] theorem State.outputs_false_rxOutValid (s : State) : (s.outputs false).rxOutValid = s.rxOutValid := rfl
@[simp] theorem State.outputs_false_ckInReady (s : State) : (s.outputs false).ckInReady = s.ckInReady := rfl
@[simp] theorem State.outputs_txOutData (s : State) (r : Bool) : (s.outputs r).txOutData = s.txQ.items.head? := rfl
@[simp] theorem State.outputs_rxOutTok (s : State) (r : Bool) : (s.outputs r).rxOutTok = s.rxQ.items.head? := rfl
@[simp] theorem State.outputs_true_txInReady (s : State) : (s.outputs true).txInReady = false := rfl
@[simp] theorem State.outputs_true_txOutValid (s : State) : (s.outputs true).txOutValid = false := rfl
@[simp] theorem State.outputs_true_rxInReady (s : State) : (s.outputs true).rxInReady = false := rfl
@[simp] theorem State.outputs_true_rxOutValid (s : State) : (s.outputs true).rxOutValid = false := rfl
@[simp] theorem State.outputs_true_ckInReady (s : State) : (s.outputs true).ckInReady = false := rfl

theorem State.txInReady_iff (s : State) : s.txInReady = true ↔ 3 ≤ s.txQ.free := decide_eq_true_iff
theorem State.txOutValid_iff (s : State) : s.txOutValid = true ↔ 1 ≤ s.txQ.len := decide_eq_true_iff
theorem State.rxInReady_iff (s : State) : s.rxInReady = true ↔ 1 ≤ s.rxQ.free := decide_eq_true_iff
theorem State.rxOutValid_iff (s : State) : s.rxOutValid = true ↔ 1 ≤ s.rxQ.len := decide_eq_true_iff

end Sys2Proof.Machine
end

