-- ==== Sys2Proof/Laws/Ops.lean ====
section
/-! SUPPORT. What each shared shape of a meaning can answer, said once. -/

namespace Sys2Proof.Machine

/-- R80: a ready `tx_in` takes the token. -/
theorem onTxIn_ready (s after : State) (h : 3 ≤ s.txQ.free) : onTxIn s after = .next after := by
  simp [onTxIn, State.txInReady, h]

/-- R80: a `tx_in` that is not ready holds the token. -/
theorem onTxIn_held (s after : State) (h : s.txQ.free < 3) : onTxIn s after = .next s := by
  simp [onTxIn, State.txInReady, Nat.not_le.mpr h]

/-- Everything `onTxIn` can answer. -/
theorem onTxIn_cases (s after t : State) (h : onTxIn s after = .next t) :
    (3 ≤ s.txQ.free ∧ t = after) ∨ (s.txQ.free < 3 ∧ t = s) := by
  rcases Nat.lt_or_ge s.txQ.free 3 with hf | hf
  · rw [onTxIn_held s after hf] at h; exact .inr ⟨hf, by cases h; rfl⟩
  · rw [onTxIn_ready s after hf] at h; exact .inl ⟨hf, by cases h; rfl⟩

/-- R100, R62: a ready `rx_in` takes the byte as the symbol it is. -/
theorem onRxIn_ready (i : Instr) (w : Byte) (s after : State) (h : 1 ≤ s.rxQ.free)
    (hc : classify s.rxState w = i) : onRxIn i w s after = .next after := by
  simp [onRxIn, State.rxInReady, h, hc]

/-- R100: an `rx_in` that is not ready holds the byte. -/
theorem onRxIn_held (i : Instr) (w : Byte) (s after : State) (h : s.rxQ.free = 0) :
    onRxIn i w s after = .next s := by
  simp [onRxIn, State.rxInReady, h]

/-- Everything `onRxIn` can answer as a next state. -/
theorem onRxIn_cases (i : Instr) (w : Byte) (s after t : State) (h : onRxIn i w s after = .next t) :
    (1 ≤ s.rxQ.free ∧ classify s.rxState w = i ∧ t = after) ∨ (s.rxQ.free = 0 ∧ t = s) := by
  rcases Nat.eq_zero_or_pos s.rxQ.free with hf | hf
  · rw [onRxIn_held i w s after hf] at h; exact .inr ⟨hf, by cases h; rfl⟩
  · by_cases hc : classify s.rxState w = i
    · rw [onRxIn_ready i w s after hf hc] at h; exact .inl ⟨hf, hc, by cases h; rfl⟩
    · have hr : s.rxInReady = true := by simp [State.rxInReady]; omega
      simp [onRxIn, hr, hc] at h

/-- R112: with `rx_q` empty nothing is delivered. -/
theorem onRxOut_nil (i : Instr) (s : State) (h : s.rxQ.items = []) : onRxOut i s = .next s := by
  simp [onRxOut, h]

/-- R112: the head of `rx_q` is delivered as the token it is. -/
theorem onRxOut_cons (i : Instr) (s : State) (t : Token) (ts : List Token) (h : s.rxQ.items = t :: ts)
    (hd : decodeRxOut t = .instr i) : onRxOut i s = .next s.popRx := by
  simp [onRxOut, h, hd]

/-- Everything `onRxOut` can answer as a next state. -/
theorem onRxOut_cases (i : Instr) (s t : State) (h : onRxOut i s = .next t) :
    (s.rxQ.items = [] ∧ t = s) ∨
      (∃ u us, s.rxQ.items = u :: us ∧ decodeRxOut u = .instr i ∧ t = s.popRx) := by
  cases hq : s.rxQ.items with
  | nil => rw [onRxOut_nil i s hq] at h; exact .inl ⟨rfl, by cases h; rfl⟩
  | cons u us =>
    by_cases hd : decodeRxOut u = .instr i
    · rw [onRxOut_cons i s u us hq hd] at h; exact .inr ⟨u, us, rfl, hd, by cases h; rfl⟩
    · simp [onRxOut, hq, hd] at h

end Sys2Proof.Machine
end

