-- ==== Sys2Proof/Laws/Exec.lean ====
section
/-! SUPPORT. The shape of every meaning, by the port of its row. -/

namespace Sys2Proof.Machine

/-- The classification of a byte is a symbol of that byte. -/
theorem wireByte_classify (st : RxState) (w : Byte) : wireByte? (classify st w) = some w := by
  cases st <;> simp only [classify] <;> (repeat' split) <;> simp_all [wireByte?]

/-- The classification of a byte is a row of `rx_in`. -/
theorem portOf_classify (st : RxState) (w : Byte) : portOf (classify st w) = .rxIn := by
  cases st <;> simp only [classify] <;> (repeat' split) <;> rfl

/-- A token on `tx_in` is a row of `tx_in`. -/
theorem portOf_decodeTxIn (t : Token) : portOf (decodeTxIn t) = .txIn := by
  simp only [decodeTxIn]; (repeat' split) <;> rfl

/-- A token on `ck_in` is a row of `ck_in`. -/
theorem portOf_decodeCkIn (t : Token) : portOf (decodeCkIn t) = .ckIn := by
  simp only [decodeCkIn]; (repeat' split) <;> rfl

/-- A row of `tx_in` is a token transfer of ENC (R80). -/
theorem exec_of_txIn (i : Instr) (s : State) (h : portOf i = .txIn) : ∃ after, exec i s = onTxIn s after := by
  cases i <;> first | exact ⟨_, rfl⟩ | cases h

/-- A row of `rx_in` is a byte transfer of DEC, with the symbol's own byte (R100). -/
theorem exec_of_rxIn (i : Instr) (s : State) (h : portOf i = .rxIn) :
    ∃ w after, wireByte? i = some w ∧ exec i s = onRxIn i w s after := by
  cases i <;> first | exact ⟨_, _, rfl, rfl⟩ | cases h

/-- A row of `ck_in` always completes (R130). -/
theorem exec_of_ckIn (i : Instr) (s : State) (h : portOf i = .ckIn) : ∃ after, exec i s = .next after := by
  cases i <;> first | exact ⟨_, rfl⟩ | cases h

/-- A row of `rx_out` is the delivery of its token (R112). -/
theorem exec_of_rxOut (i : Instr) (s : State) (h : portOf i = .rxOut) : exec i s = onRxOut i s := by
  cases i <;> first | rfl | cases h

/-- No row of the table is of `tx_out` (R72). -/
theorem portOf_ne_txOut (i : Instr) : portOf i ≠ .txOut := by
  cases i <;> simp [portOf]

end Sys2Proof.Machine
end

