-- ==== Sys2Proof/Laws/PerInstr.lean ====
section
/-! SUPPORT. The statements made per instruction, one lemma per constructor of Instr. -/

namespace Sys2Proof.Laws.EncodesInRow

/-- A well-formed instruction's encoding selects a row of the opcode table that bears its mnemonic and stands
for its port, state and format (30_encoding.md R72). -/
def Statement (i : Instr) : Prop :=
  i.wellFormed = true →
    ∃ r ∈ opcodeTable, r.mnemonic = mnemonicOf i ∧ r.port = portOf i ∧ r.rxState = rxStateOf i ∧
      r.format = formatOf i ∧ r.selects (encode i) = true

theorem rxOpen : Statement .rxOpen := by unfold Statement; decide
theorem rxJunk (w : Byte) : Statement (.rxJunk w) := by
  intro _; refine ⟨⟨"RX.JUNK", .w8, 0x00, 0x00, 0, some .idle, .rxIn⟩, by decide, rfl, rfl, rfl, rfl, ?_⟩
  revert w; decide
theorem rxClose : Statement .rxClose := by unfold Statement; decide
theorem rxEsc : Statement .rxEsc := by unfold Statement; decide
theorem rxLit (w : Byte) : Statement (.rxLit w) := by
  intro _; refine ⟨⟨"RX.LIT", .w8, 0x00, 0x00, 0, some .frame, .rxIn⟩, by decide, rfl, rfl, rfl, rfl, ?_⟩
  revert w; decide
theorem rxUnescDelim : Statement .rxUnescDelim := by unfold Statement; decide
theorem rxUnescEsc : Statement .rxUnescEsc := by unfold Statement; decide
theorem rxTrunc : Statement .rxTrunc := by unfold Statement; decide
theorem rxBadEsc (s : Byte) : Statement (.rxBadEsc s) := by
  intro _; refine ⟨⟨"RX.BADESC", .w16, 0xDB00, 0xFF00, 0, some .esc, .rxIn⟩, by decide, rfl, rfl, rfl, rfl, ?_⟩
  revert s; decide
theorem rxDropEnd : Statement .rxDropEnd := by unfold Statement; decide
theorem rxDropSkip (w : Byte) : Statement (.rxDropSkip w) := by
  intro _; refine ⟨⟨"RX.DROP_SKIP", .w8, 0x00, 0x00, 0, some .drop, .rxIn⟩, by decide, rfl, rfl, rfl, rfl, ?_⟩
  revert w; decide
theorem txData (b : Byte) : Statement (.txData b) := by
  intro _; refine ⟨⟨"TX.DATA", .t10, 0x000, 0x300, 1, none, .txIn⟩, by decide, rfl, rfl, rfl, rfl, ?_⟩
  revert b; decide
theorem txEof (d : Byte) : Statement (.txEof d) := by
  intro _; refine ⟨⟨"TX.EOF", .t10, 0x200, 0x300, 1, none, .txIn⟩, by decide, rfl, rfl, rfl, rfl, ?_⟩
  revert d; decide
theorem txRsvd1 (d : Byte) : Statement (.txRsvd1 d) := by
  intro _; refine ⟨⟨"TX.RSVD1", .t10, 0x100, 0x300, 1, none, .txIn⟩, by decide, rfl, rfl, rfl, rfl, ?_⟩
  revert d; decide
theorem txRsvd3 (d : Byte) : Statement (.txRsvd3 d) := by
  intro _; refine ⟨⟨"TX.RSVD3", .t10, 0x300, 0x300, 1, none, .txIn⟩, by decide, rfl, rfl, rfl, rfl, ?_⟩
  revert d; decide
theorem ckData (b : Byte) : Statement (.ckData b) := by
  intro _; refine ⟨⟨"CK.DATA", .t10, 0x000, 0x300, 1, none, .ckIn⟩, by decide, rfl, rfl, rfl, rfl, ?_⟩
  revert b; decide
theorem ckInit (d : Byte) : Statement (.ckInit d) := by
  intro _; refine ⟨⟨"CK.INIT", .t10, 0x100, 0x300, 1, none, .ckIn⟩, by decide, rfl, rfl, rfl, rfl, ?_⟩
  revert d; decide
theorem ckZero (d : Byte) : Statement (.ckZero d) := by
  intro _; refine ⟨⟨"CK.ZERO", .t10, 0x200, 0x300, 1, none, .ckIn⟩, by decide, rfl, rfl, rfl, rfl, ?_⟩
  revert d; decide
theorem ckSeed (b : Byte) : Statement (.ckSeed b) := by
  intro _; refine ⟨⟨"CK.SEED", .t10, 0x300, 0x300, 1, none, .ckIn⟩, by decide, rfl, rfl, rfl, rfl, ?_⟩
  revert b; decide
theorem data (b : Byte) : Statement (.data b) := by
  intro _; refine ⟨⟨"DATA", .t10, 0x000, 0x300, 1, none, .rxOut⟩, by decide, rfl, rfl, rfl, rfl, ?_⟩
  revert b; decide
theorem eof : Statement .eof := by unfold Statement; decide
theorem errTrunc : Statement .errTrunc := by unfold Statement; decide
theorem errBadEsc : Statement .errBadEsc := by unfold Statement; decide

end Sys2Proof.Laws.EncodesInRow
end

