-- ==== Sys2Proof/Laws/Runs.lean ====
section
/-! SUPPORT. The record and the stream functions over an appended piece. -/

namespace Sys2Proof.Machine

/-! ### Reading the record -/

@[simp] theorem sinceReset_nil : sinceReset [] = [] := rfl

theorem sinceReset_append_one (log : List Happening) (h : Happening) :
    sinceReset (log ++ [h]) = if h = .reset then [] else sinceReset log ++ [h] := by
  simp [sinceReset, List.foldl_append]

@[simp] theorem sinceReset_reset (log : List Happening) : sinceReset (log ++ [.reset]) = [] := by
  simp [sinceReset_append_one]

/-- What is appended without a reset edge is appended to what happened since reset. -/
theorem sinceReset_append (log hs : List Happening) (h : Happening.reset ∉ hs) :
    sinceReset (log ++ hs) = sinceReset log ++ hs := by
  induction hs using List.reverseRecOn with
  | nil => simp
  | append_singleton hs x ih =>
    simp only [List.mem_append, List.mem_singleton, not_or] at h
    rw [← List.append_assoc, sinceReset_append_one, if_neg (fun e => h.2 e.symm), ih h.1, List.append_assoc]

@[simp] theorem txInOf_append (a b : List Happening) : txInOf (a ++ b) = txInOf a ++ txInOf b := by
  induction a with
  | nil => rfl
  | cons h a ih => cases h <;> simp [txInOf, ih]

@[simp] theorem txOutOf_append (a b : List Happening) : txOutOf (a ++ b) = txOutOf a ++ txOutOf b := by
  induction a with
  | nil => rfl
  | cons h a ih => cases h <;> simp [txOutOf, ih]

@[simp] theorem rxInOf_append (a b : List Happening) : rxInOf (a ++ b) = rxInOf a ++ rxInOf b := by
  induction a with
  | nil => rfl
  | cons h a ih => cases h <;> simp [rxInOf, ih]

@[simp] theorem rxOutOf_append (a b : List Happening) : rxOutOf (a ++ b) = rxOutOf a ++ rxOutOf b := by
  induction a with
  | nil => rfl
  | cons h a ih => cases h <;> simp [rxOutOf, ih]

@[simp] theorem ckInOf_append (a b : List Happening) : ckInOf (a ++ b) = ckInOf a ++ ckInOf b := by
  induction a with
  | nil => rfl
  | cons h a ih => cases h <;> simp [ckInOf, ih]

/-! ### The stream functions -/

theorem encRun_append (st : TxState) (a b : List Token) :
    Codec.encRun st (a ++ b) =
      ((Codec.encRun st a).1 ++ (Codec.encRun (Codec.encRun st a).2 b).1,
        (Codec.encRun (Codec.encRun st a).2 b).2) := by
  induction a generalizing st with
  | nil => simp [Codec.encRun]
  | cons t a ih => simp [Codec.encRun, ih, List.append_assoc]

theorem decRun_append (st : RxState) (a b : List Byte) :
    Codec.decRun st (a ++ b) =
      ((Codec.decRun st a).1 ++ (Codec.decRun (Codec.decRun st a).2 b).1,
        (Codec.decRun (Codec.decRun st a).2 b).2) := by
  induction a generalizing st with
  | nil => simp [Codec.decRun]
  | cons w a ih => simp [Codec.decRun, ih, List.append_assoc]

theorem ckRun_append (r : Byte × Byte) (a b : List Token) :
    Codec.ckRun r (a ++ b) = Codec.ckRun (Codec.ckRun r a) b := by
  induction a generalizing r with
  | nil => rfl
  | cons t a ih => simp [Codec.ckRun, ih]

theorem body_append (x y : List Byte) : Codec.body (x ++ y) = Codec.body x ++ Codec.body y := by
  induction x with
  | nil => rfl
  | cons b x ih => simp [Codec.body, ih, List.append_assoc]

/-! ### A run is a step and a run -/

theorem run_succ_next (n : Nat) (s t : State) (h : Host.Core.run Sys2Proof.core (n + 1) s = .next t) :
    ∃ u, step s = .next u ∧ Host.Core.run Sys2Proof.core n u = .next t := by
  simp only [Host.Core.run] at h
  cases hs : Sys2Proof.core.step s with
  | next u => rw [hs] at h; exact ⟨u, hs, h⟩
  | fault r => rw [hs] at h; cases h
  | refused r => rw [hs] at h; cases h

/-- The first step of a run that goes on. -/
theorem run_of_step (n : Nat) (s u : State) (h : step s = .next u) :
    Host.Core.run Sys2Proof.core (n + 1) s = Host.Core.run Sys2Proof.core n u := by
  have hs : Sys2Proof.core.step s = Host.Outcome.next u := h
  simp only [Host.Core.run]
  rw [hs]

end Sys2Proof.Machine
end

