-- ==== Sys2Proof/Laws/Step.lean ====
section
/-! SUPPORT. What one step is, by the turn at the head of the schedule, and what each turn transfers, said once. -/

namespace Sys2Proof.Machine

/-- With nothing scheduled, nothing changes. -/
theorem step_nil (s : State) (h : s.env.sched = []) : step s = .next s := by
  simp only [step, h]

/-- The first turn of the schedule is taken. -/
theorem step_cons (s : State) (e : Event) (rest : List Event) (h : s.env.sched = e :: rest) :
    step s = match fetch e (s.setSched rest) with
      | some (i, s') => exec i s'
      | none => .next (eventEffect e (s.setSched rest)) := by
  simp only [step, h] <;> rfl

/-- A turn that transfers an instruction runs it. -/
theorem step_some (s : State) (e : Event) (rest : List Event) (i : Instr) (s' : State)
    (h : s.env.sched = e :: rest) (hf : fetch e (s.setSched rest) = some (i, s')) : step s = exec i s' := by
  rw [step_cons s e rest h, hf]

/-- A turn that transfers no instruction has the event's effect. -/
theorem step_none (s : State) (e : Event) (rest : List Event) (h : s.env.sched = e :: rest)
    (hf : fetch e (s.setSched rest) = none) : step s = .next (eventEffect e (s.setSched rest)) := by
  rw [step_cons s e rest h, hf]

/-! ### What a turn transfers -/

theorem fetch_txIn_ready (s : State) (t : Token) (more : List Token) (ho : s.env.txIn = t :: more)
    (hr : 3 ≤ s.txQ.free) : fetch .txIn s = some (decodeTxIn t, s.takeTxIn t more) := by
  simp [fetch, ho, State.txInReady, hr]

theorem fetch_txIn_held (s : State) (hr : s.txQ.free < 3) : fetch .txIn s = none := by
  cases ho : s.env.txIn <;> simp [fetch, ho, State.txInReady, Nat.not_le.mpr hr]

theorem fetch_rxIn_ready (s : State) (w : Byte) (more : List Byte) (ho : s.env.rxIn = w :: more)
    (hr : 1 ≤ s.rxQ.free) : fetch .rxIn s = some (classify s.rxState w, s.takeRxIn w more) := by
  simp [fetch, ho, State.rxInReady, hr]

theorem fetch_rxIn_held (s : State) (hr : s.rxQ.free = 0) : fetch .rxIn s = none := by
  cases ho : s.env.rxIn <;> simp [fetch, ho, State.rxInReady, hr]

theorem fetch_ckIn_offered (s : State) (t : Token) (more : List Token) (ho : s.env.ckIn = t :: more) :
    fetch .ckIn s = some (decodeCkIn t, s.takeCkIn t more) := by
  simp [fetch, ho, State.ckInReady]

theorem fetch_wire_ready (s : State) (w : Byte) (ws : List Byte) (hq : s.txQ.items = w :: ws)
    (hr : 1 ≤ s.rxQ.free) : fetch .wire s = some (classify s.rxState w, s.popTx.record (.rxIn w)) := by
  simp [fetch, hq, State.rxInReady, hr]

theorem fetch_wire_held (s : State) (hr : s.rxQ.free = 0) : fetch .wire s = none := by
  cases hq : s.txQ.items <;> simp [fetch, hq, State.rxInReady, hr]

theorem fetch_rxOut_produced (s : State) (t : Token) (ts : List Token) (i : Instr) (hq : s.rxQ.items = t :: ts)
    (hd : decodeRxOut t = .instr i) : fetch .rxOut s = some (i, s) := by
  simp [fetch, hq, hd]

/-- Everything a turn can transfer. -/
theorem fetch_cases (e : Event) (s s' : State) (i : Instr) (h : fetch e s = some (i, s')) :
    (∃ t more, e = .txIn ∧ s.env.txIn = t :: more ∧ 3 ≤ s.txQ.free ∧ i = decodeTxIn t ∧ s' = s.takeTxIn t more) ∨
    (∃ w more, e = .rxIn ∧ s.env.rxIn = w :: more ∧ 1 ≤ s.rxQ.free ∧ i = classify s.rxState w ∧
      s' = s.takeRxIn w more) ∨
    (∃ t more, e = .ckIn ∧ s.env.ckIn = t :: more ∧ i = decodeCkIn t ∧ s' = s.takeCkIn t more) ∨
    (∃ w ws, e = .wire ∧ s.txQ.items = w :: ws ∧ 1 ≤ s.rxQ.free ∧ i = classify s.rxState w ∧
      s' = s.popTx.record (.rxIn w)) ∨
    (∃ t ts, e = .rxOut ∧ s.rxQ.items = t :: ts ∧ decodeRxOut t = .instr i ∧ s' = s) := by
  cases e with
  | txIn =>
    rcases Nat.lt_or_ge s.txQ.free 3 with hf | hf
    · rw [fetch_txIn_held s hf] at h; cases h
    · cases ho : s.env.txIn with
      | nil => simp [fetch, ho] at h
      | cons t more =>
        rw [fetch_txIn_ready s t more ho hf] at h; cases h
        exact .inl ⟨t, more, rfl, rfl, hf, rfl, rfl⟩
  | rxIn =>
    rcases Nat.eq_zero_or_pos s.rxQ.free with hf | hf
    · rw [fetch_rxIn_held s hf] at h; cases h
    · cases ho : s.env.rxIn with
      | nil => simp [fetch, ho] at h
      | cons w more =>
        rw [fetch_rxIn_ready s w more ho hf] at h; cases h
        exact .inr (.inl ⟨w, more, rfl, rfl, hf, rfl, rfl⟩)
  | ckIn =>
    cases ho : s.env.ckIn with
    | nil => simp [fetch, ho] at h
    | cons t more =>
      rw [fetch_ckIn_offered s t more ho] at h; cases h
      exact .inr (.inr (.inl ⟨t, more, rfl, rfl, rfl, rfl⟩))
  | wire =>
    rcases Nat.eq_zero_or_pos s.rxQ.free with hf | hf
    · rw [fetch_wire_held s hf] at h; cases h
    · cases hq : s.txQ.items with
      | nil => simp [fetch, hq] at h
      | cons w ws =>
        rw [fetch_wire_ready s w ws hq hf] at h; cases h
        exact .inr (.inr (.inr (.inl ⟨w, ws, rfl, rfl, hf, rfl, rfl⟩)))
  | rxOut =>
    cases hq : s.rxQ.items with
    | nil => simp [fetch, hq] at h
    | cons t ts =>
      cases hd : decodeRxOut t with
      | instr j =>
        rw [fetch_rxOut_produced s t ts j hq hd] at h; cases h
        exact .inr (.inr (.inr (.inr ⟨t, ts, rfl, rfl, hd, rfl⟩)))
      | reject r => simp [fetch, hq, hd] at h
  | txOut => simp [fetch] at h
  | sample p => simp [fetch] at h
  | reset => simp [fetch] at h

end Sys2Proof.Machine
end

