-- ==== Sys2Proof/Tests/Slice0.lean ====
section
/-! SUPPORT. Tests: expected values are those of spec/95_test_vectors.md and of the worked examples in the
rules; each theorem names its vector.  At the end, one witness per statement that has hypotheses. -/

namespace Sys2Proof.Tests

open Sys2Proof.Machine

/-! ### Well-formedness refuses each ill-formed operand (R62) -/

theorem test_wf_junk : (Instr.rxJunk 0xC0#8).wellFormed = false ∧ (Instr.rxJunk 0xDB#8).wellFormed = true := by decide
theorem test_wf_lit_delim : (Instr.rxLit 0xC0#8).wellFormed = false := by decide
theorem test_wf_lit_esc : (Instr.rxLit 0xDB#8).wellFormed = false ∧ (Instr.rxLit 0xDC#8).wellFormed = true := by decide
theorem test_wf_badesc_substitutes :
    (Instr.rxBadEsc 0xDC#8).wellFormed = false ∧ (Instr.rxBadEsc 0xDD#8).wellFormed = false := by decide
theorem test_wf_badesc_delim :
    (Instr.rxBadEsc 0xC0#8).wellFormed = false ∧ (Instr.rxBadEsc 0xDB#8).wellFormed = true := by decide
theorem test_wf_dropskip : (Instr.rxDropSkip 0xC0#8).wellFormed = false := by decide

/-! ### Every constructor decodes from a word written out from R60, R62, R67, R68, R69 -/

theorem test_decode_idle :
    decode .rxIn .idle .w8 0b00000000_11000000#16 = .instr .rxOpen ∧
    decode .rxIn .idle .w8 0b00000000_11011011#16 = .instr (.rxJunk 0xDB#8) := by decide
theorem test_decode_frame :
    decode .rxIn .frame .w8 0b00000000_11000000#16 = .instr .rxClose ∧
    decode .rxIn .frame .w8 0b00000000_11011011#16 = .instr .rxEsc ∧
    decode .rxIn .frame .w8 0b00000000_11011100#16 = .instr (.rxLit 0xDC#8) := by decide
theorem test_decode_escape :
    decode .rxIn .esc .w16 0b11011011_11011100#16 = .instr .rxUnescDelim ∧
    decode .rxIn .esc .w16 0b11011011_11011101#16 = .instr .rxUnescEsc ∧
    decode .rxIn .esc .w16 0b11011011_11000000#16 = .instr .rxTrunc ∧
    decode .rxIn .esc .w16 0b11011011_11011011#16 = .instr (.rxBadEsc 0xDB#8) := by decide
theorem test_decode_drop :
    decode .rxIn .drop .w8 0b00000000_11000000#16 = .instr .rxDropEnd ∧
    decode .rxIn .drop .w8 0b00000000_11011100#16 = .instr (.rxDropSkip 0xDC#8) := by decide
theorem test_decode_tx_in :
    decode .txIn .idle .t10 0b000000_00_01000001#16 = .instr (.txData 0x41#8) ∧
    decode .txIn .idle .t10 0b000000_10_10101010#16 = .instr (.txEof 0xAA#8) ∧
    decode .txIn .idle .t10 0b000000_01_01010101#16 = .instr (.txRsvd1 0x55#8) ∧
    decode .txIn .idle .t10 0b000000_11_11111111#16 = .instr (.txRsvd3 0xFF#8) := by decide
theorem test_decode_ck_in :
    decode .ckIn .idle .t10 0b000000_00_00000001#16 = .instr (.ckData 0x01#8) ∧
    decode .ckIn .idle .t10 0b000000_01_11111111#16 = .instr (.ckInit 0xFF#8) ∧
    decode .ckIn .idle .t10 0b000000_10_11111111#16 = .instr (.ckZero 0xFF#8) ∧
    decode .ckIn .idle .t10 0b000000_11_01011010#16 = .instr (.ckSeed 0x5A#8) := by decide
theorem test_decode_rx_out :
    decode .rxOut .idle .t10 0b000000_00_11000000#16 = .instr (.data 0xC0#8) ∧
    decode .rxOut .idle .t10 0b000000_10_00000000#16 = .instr .eof ∧
    decode .rxOut .idle .t10 0b000000_11_00000001#16 = .instr .errTrunc ∧
    decode .rxOut .idle .t10 0b000000_11_00000010#16 = .instr .errBadEsc := by decide

/-- R69: what a consumer may treat as impossible; R60: what is no symbol. -/
theorem test_decode_rejects :
    decode .rxOut .idle .t10 0x0100#16 = .reject .neverProduced ∧
    decode .rxOut .idle .t10 0x0201#16 = .reject .neverProduced ∧
    decode .rxOut .idle .t10 0x0303#16 = .reject .neverProduced ∧
    decode .rxIn .esc .w16 0xC0DC#16 = .reject .noPrefix ∧
    decode .rxIn .frame .w16 0xDBDC#16 = .reject .pairOutsideEscape ∧
    decode .txIn .idle .t10 0x0400#16 = .reject .tooWide := by decide

/-- Table words, numbered as spec/opcode_table.json numbers them. -/
theorem test_table_word :
    decodeTableWord 16 0xDBDC = some .rxUnescDelim ∧ decodeTableWord 16 0x0302 = some .errBadEsc ∧
    decodeTableWord 16 0x0041 = some (.txData 0x41#8) ∧ decodeTableWord 8 0xC0 = some .rxOpen ∧
    decodeTableWord 16 0x10000 = none := by decide

/-! ### Looking at an outcome, and small states -/

/-- A next state of which `p` holds. -/
def nextWith (o : Host.Outcome State Fault Refusal) (p : State → Bool) : Bool :=
  match o with
  | .next s => p s
  | .fault _ => false
  | .refused _ => false

/-- The reset state with the queue depths 8 and 2. -/
def small : State := State.resetWith 8 2

/-- ENC with a frame open (or not) and bytes queued, in a queue of depth `cap`. -/
def enc (st : TxState) (cap : Nat) (q : List Byte) : State := { small with txState := st, txQ := ⟨cap, q⟩ }

/-- DEC in a state, with tokens queued, in a queue of depth `cap`. -/
def dec (st : RxState) (cap : Nat) (q : List Token) : State := { small with rxState := st, rxQ := ⟨cap, q⟩ }

/-- CKS with both registers. -/
def cks (acc seed : Byte) : State := { small with ckAcc := acc, ckSeed := seed }

/-- `tx_state` and `tx_q` after. -/
def encIs (st : TxState) (q : List Byte) (s : State) : Bool := s.txState == st && s.txQ.items == q

/-- `rx_state` and `rx_q` after. -/
def decIs (st : RxState) (q : List Token) (s : State) : Bool := s.rxState == st && s.rxQ.items == q

/-- Both checksum registers after. -/
def cksIs (acc seed : Byte) (s : State) : Bool := s.ckAcc == acc && s.ckSeed == seed

/-- A state with one turn scheduled. -/
def turn (e : Event) (s : State) : State := { s with env := { s.env with sched := [e] } }

/-- A state whose next turn is a token on `tx_in`. -/
def sendTx (t : Token) (s : State) : State := { s with env := { s.env with sched := [.txIn], txIn := [t] } }

/-- A state whose next turn is a byte on `rx_in`. -/
def sendRx (w : Byte) (s : State) : State := { s with env := { s.env with sched := [.rxIn], rxIn := [w] } }

/-- A state whose next turn is a token on `ck_in`. -/
def sendCk (t : Token) (s : State) : State := { s with env := { s.env with sched := [.ckIn], ckIn := [t] } }

/-! ### ENC (40_encoder.md worked examples, 95_test_vectors.md 2) -/

theorem test_tx_data_opens : nextWith (exec (.txData 0xC0#8) (enc .idle 8 []))
    (encIs .frame [0xC0#8, 0xDB#8, 0xDC#8]) = true := by decide
/-- S2, E26: inside a frame no delimiter is pushed, and `DC` is ordinary (E6). -/
theorem test_tx_data_in_frame :
    nextWith (exec (.txData 0xDB#8) (enc .frame 8 [])) (encIs .frame [0xDB#8, 0xDD#8]) = true ∧
    nextWith (exec (.txData 0xDC#8) (enc .frame 8 [])) (encIs .frame [0xDC#8]) = true := by decide
theorem test_tx_eof_closes : nextWith (exec (.txEof 0x00#8) (enc .frame 8 [0xC0#8, 0x41#8]))
    (encIs .idle [0xC0#8, 0x41#8, 0xC0#8]) = true := by decide
/-- E1, E25: the lone `TX.EOF`, whose data field is ignored. -/
theorem test_tx_eof_empty_frame : nextWith (exec (.txEof 0xAA#8) (enc .idle 8 []))
    (encIs .idle [0xC0#8, 0xC0#8]) = true := by decide
/-- R83's example, through the step: token `0x155` is consumed and changes nothing. -/
theorem test_tx_rsvd1 : nextWith (step (sendTx 0x155#10 (enc .frame 8 [0xC0#8, 0xDB#8, 0xDC#8])))
    (fun t => encIs .frame [0xC0#8, 0xDB#8, 0xDC#8] t && t.env.txIn == []) = true := by decide
/-- E23: a reserved token does not open a frame. -/
theorem test_tx_rsvd3 : nextWith (step (sendTx 0x3FF#10 (enc .idle 8 [])))
    (fun t => encIs .idle [] t && t.env.txIn == []) = true := by decide
/-- 2.3: at depth 4 with two bytes queued the token is held and stays offered; with one byte it is taken. -/
theorem test_tx_in_held : nextWith (step (sendTx 0x042#10 (enc .frame 4 [0xC0#8, 0x41#8])))
    (fun t => encIs .frame [0xC0#8, 0x41#8] t && t.env.txIn == [0x042#10]) = true := by decide
theorem test_tx_in_ready : nextWith (step (sendTx 0x042#10 (enc .frame 4 [0x41#8])))
    (encIs .frame [0x41#8, 0x42#8]) = true := by decide
theorem test_tx_pop : nextWith (step (turn .txOut (enc .idle 8 [0xC0#8, 0x41#8])))
    (fun t => encIs .idle [0x41#8] t && t.env.log == [.txOut 0xC0#8]) = true := by decide

/-! ### DEC (95_test_vectors.md 3.2, V30 to V44) -/

theorem test_rx_open : nextWith (step (sendRx 0xC0#8 (dec .idle 2 []))) (decIs .frame []) = true := by decide
theorem test_rx_junk : nextWith (step (sendRx 0xDB#8 (dec .idle 2 [])))
    (fun t => decIs .idle [] t && t.env.rxIn == []) = true := by decide
theorem test_rx_close : nextWith (step (sendRx 0xC0#8 (dec .frame 2 [0x041#10])))
    (decIs .idle [0x041#10, 0x200#10]) = true := by decide
theorem test_rx_esc : nextWith (step (sendRx 0xDB#8 (dec .frame 2 []))) (decIs .esc []) = true := by decide
theorem test_rx_lit : nextWith (step (sendRx 0xDC#8 (dec .frame 2 []))) (decIs .frame [0x0DC#10]) = true := by decide
theorem test_rx_unesc_delim : nextWith (step (sendRx 0xDC#8 (dec .esc 2 [])))
    (decIs .frame [0x0C0#10]) = true := by decide
theorem test_rx_unesc_esc : nextWith (step (sendRx 0xDD#8 (dec .esc 2 [])))
    (decIs .frame [0x0DB#10]) = true := by decide
theorem test_rx_trunc : nextWith (step (sendRx 0xC0#8 (dec .esc 2 [0x001#10])))
    (decIs .idle [0x001#10, 0x301#10]) = true := by decide
theorem test_rx_badesc : nextWith (step (sendRx 0xDB#8 (dec .esc 2 []))) (decIs .drop [0x302#10]) = true := by decide
theorem test_rx_drop_end : nextWith (step (sendRx 0xC0#8 (dec .drop 2 []))) (decIs .idle []) = true := by decide
theorem test_rx_drop_skip : nextWith (step (sendRx 0xDC#8 (dec .drop 2 []))) (decIs .drop []) = true := by decide
/-- 3.4: with `rx_q` full even a byte that would push nothing is held. -/
theorem test_rx_in_held : nextWith (step (sendRx 0xDB#8 (dec .frame 1 [0x001#10])))
    (fun t => decIs .frame [0x001#10] t && t.env.rxIn == [0xDB#8]) = true := by decide

/-! ### Delivery on `rx_out` (R112) -/

theorem test_pop_data : nextWith (step (turn .rxOut (dec .idle 2 [0x041#10, 0x200#10])))
    (fun t => decIs .idle [0x200#10] t && t.env.log == [.rxOut 0x041#10]) = true := by decide
theorem test_pop_eof : nextWith (step (turn .rxOut (dec .frame 2 [0x200#10])))
    (fun t => decIs .frame [] t && t.env.log == [.rxOut 0x200#10]) = true := by decide
theorem test_pop_err_trunc : nextWith (step (turn .rxOut (dec .idle 2 [0x301#10])))
    (fun t => decIs .idle [] t && t.env.log == [.rxOut 0x301#10]) = true := by decide
theorem test_pop_err_badesc : nextWith (step (turn .rxOut (dec .drop 2 [0x302#10])))
    (fun t => decIs .drop [] t && t.env.log == [.rxOut 0x302#10]) = true := by decide

/-! ### CKS (42_checksum.md worked examples, 95_test_vectors.md 4.2) -/

theorem test_ck_data : nextWith (step (sendCk 0x001#10 (cks 0xEF#8 0xEF#8))) (cksIs 0xEE#8 0xEF#8) = true := by decide
theorem test_ck_init : nextWith (step (sendCk 0x1FF#10 (cks 0x12#8 0xEF#8))) (cksIs 0xEF#8 0xEF#8) = true := by decide
theorem test_ck_zero : nextWith (step (sendCk 0x2FF#10 (cks 0xEE#8 0xEF#8))) (cksIs 0x00#8 0xEF#8) = true := by decide
theorem test_ck_seed : nextWith (step (sendCk 0x35A#10 (cks 0x12#8 0xEF#8))) (cksIs 0x12#8 0x5A#8) = true := by decide

/-! ### Pins and reset -/

theorem test_pin_rx_state : nextWith (step (turn (.sample .rxStateO) (dec .drop 2 [])))
    (fun t => t.env.log == [.sampled (.rxStateO 0b11#2)]) = true := by decide
/-- X6: reset in the middle of an accumulation, with a changed seed, a frame open and bytes queued (X4). -/
theorem test_reset : nextWith (step (turn .reset { cks 0x5B#8 0x5A#8 with
      txState := .frame, txQ := ⟨8, [0xC0#8, 0x41#8]⟩, rxState := .drop, rxQ := ⟨2, [0x302#10]⟩ }))
    (fun t => encIs .idle [] t && decIs .idle [] t && cksIs 0x00#8 0xEF#8 t) = true := by decide
/-- R170: during reset nothing is shown ready or valid. -/
theorem test_reset_outputs :
    (dec .idle 2 [0x001#10]).outputs true = ⟨false, false, none, false, false, some 0x001#10, false⟩ ∧
    (dec .idle 2 [0x001#10]).outputs false = ⟨true, false, none, true, true, some 0x001#10, true⟩ := by decide

/-- R30, 2.3: with depth 4, three bytes free and then two; the head of a queue is shown as valid. -/
theorem test_handshake :
    (enc .frame 4 [0x41#8]).outputs false = ⟨true, true, some 0x41#8, true, false, none, true⟩ ∧
    (enc .frame 4 [0xC0#8, 0x41#8]).outputs false = ⟨false, true, some 0xC0#8, true, false, none, true⟩ := by decide
/-- Log entry 13: in a turn of the wire the head of `tx_q` goes ahead of the byte on offer, which stays offered. -/
theorem test_wire_passes_offer : nextWith (step (turn .wire { enc .idle 3 [0xC0#8] with
      env := { small.env with sched := [], rxIn := [0x41#8] } }))
    (fun t => encIs .idle [] t && decIs .frame [] t && t.env.rxIn == [0x41#8]) = true := by decide

/-! ### The first instruction after reset, placed as the host places it -/

theorem test_place_data : nextWith (step (State.reset.withFetchWord 16 0x0041))
    (encIs .frame [0xC0#8, 0x41#8]) = true := by decide
theorem test_place_trunc : nextWith (step (State.reset.withFetchWord 16 0xDBC0))
    (decIs .idle [0x301#10]) = true := by decide
theorem test_place_err : nextWith (step (State.reset.withFetchWord 16 0x0302))
    (fun t => t.env.log == [.rxOut 0x302#10]) = true := by decide

/-! ### The source's vectors on the pure functions -/

/-- S2. -/
theorem test_encode_vector : Codec.encode [0xC0#8, 0xDB#8, 0x01#8]
    = [0xC0#8, 0xDB#8, 0xDC#8, 0xDB#8, 0xDD#8, 0x01#8, 0xC0#8] := by decide
/-- S1 as corrected, K15. -/
theorem test_checksum_vector : Codec.ck 0xEF#8 [0x01#8, 0x02#8, 0x03#8] = 0xEF#8 ∧
    Codec.ck 0xEF#8 [0x02#8] = 0xED#8 := by decide
/-- V56, V57. -/
theorem test_decode_frame_vector :
    Codec.decode [0x4F#8, 0xC0#8, 0xDB#8, 0xDC#8, 0xC0#8, 0x07#8] = .frame [0xC0#8] [0x07#8] ∧
    Codec.decode [0xC0#8, 0x01#8, 0xDB#8, 0xC0#8, 0xC0#8, 0x02#8, 0xC0#8]
      = .error 0x01#8 [0xC0#8, 0x02#8, 0xC0#8] := by decide
/-- V58, V59. -/
theorem test_decode_error_vector :
    Codec.decode [0xC0#8, 0x01#8, 0xDB#8, 0x02#8, 0x03#8, 0xC0#8, 0xC0#8, 0x05#8, 0xC0#8]
      = .error 0x02#8 [0xC0#8, 0x05#8, 0xC0#8] ∧
    Codec.decode [0xC0#8, 0xDB#8, 0x00#8] = .error 0x02#8 [] := by decide
/-- V8's symbols. -/
theorem test_symbols : Codec.symbols .idle [0xC0#8, 0x01#8, 0xDB#8, 0x02#8, 0x03#8, 0xC0#8]
    = [.rxOpen, .rxLit 0x01#8, .rxEsc, .rxBadEsc 0x02#8, .rxDropSkip 0x03#8, .rxDropEnd] := by decide
/-- R145. -/
theorem test_checksum_field : Codec.checksumField 4 0xEF#8 = [0xEF#8, 0x00#8, 0x00#8, 0x00#8] := by decide

/-- R74: `CKSUM [01]` offered to the machine, and the drain of a queue of two. -/
theorem test_offer_cksum : (small.offerAll (cksumOp [0x01#8])).env
    = ⟨[.ckIn, .ckIn, .sample .ckOut], [], [], [0x100#10, 0x001#10], []⟩ ∧
    drainTxOp (enc .idle 8 [0xC0#8, 0xC0#8]) = [.txPop, .txPop] := by decide
/-- R116. -/
theorem test_incomplete : (dec .frame 2 []).rxIncomplete = true ∧ (dec .esc 2 []).rxIncomplete = true ∧
    (dec .drop 2 []).rxIncomplete = false ∧ (dec .idle 2 []).rxIncomplete = false := by decide
/-- R63: what a symbol stands for. -/
theorem test_payload_byte : payloadByte? .rxUnescDelim = some 0xC0#8 ∧ payloadByte? .rxUnescEsc = some 0xDB#8 ∧
    payloadByte? (.rxLit 0xDC#8) = some 0xDC#8 ∧ payloadByte? .rxTrunc = none := by decide

/-! ### Witnesses: for each statement with hypotheses, a state and operands that meet them, at the bounds -/

/-- ResetEdgeSetsEveryItem: an edge in the middle of a frame. -/
theorem witness_reset_edge : (turn .reset (enc .frame 3 [0xC0#8])).env.sched = .reset :: [] := rfl

/-- PinSamplesCopyRegisters. -/
theorem witness_pin_samples : ∀ p : Pin, (turn (.sample p) (dec .drop 1 [])).env.sched = .sample p :: [] := fun _ => rfl

/-- TxDataPushesEscapedByte, TxEofClosesFrame, EncoderFollowsTable: three bytes free, and one less. -/
theorem witness_tx_ready_and_held :
    3 ≤ (enc .idle 3 []).txQ.cap - (enc .idle 3 []).txQ.items.length ∧
    (enc .frame 3 [0xC0#8]).txQ.cap - (enc .frame 3 [0xC0#8]).txQ.items.length < 3 := by decide

/-- ReservedTokensHaveNoEffect: both kinds, three bytes free, and one less. -/
theorem witness_reserved_tokens :
    ((0b01#2 : BitVec 2) = 0b01#2 ∨ (0b01#2 : BitVec 2) = 0b11#2) ∧
    (sendTx (mkTok 0b01#2 0x55#8) (enc .frame 4 [0xC0#8])).env.sched = .txIn :: [] ∧
    (sendTx (mkTok 0b01#2 0x55#8) (enc .frame 4 [0xC0#8])).env.txIn = mkTok 0b01#2 0x55#8 :: [] ∧
    3 ≤ (sendTx (mkTok 0b01#2 0x55#8) (enc .frame 4 [0xC0#8])).txQ.cap
      - (sendTx (mkTok 0b01#2 0x55#8) (enc .frame 4 [0xC0#8])).txQ.items.length ∧
    (sendTx (mkTok 0b11#2 0xFF#8) (enc .frame 3 [0xC0#8])).env.txIn = mkTok 0b11#2 0xFF#8 :: [] ∧
    (sendTx (mkTok 0b11#2 0xFF#8) (enc .frame 3 [0xC0#8])).txQ.cap
      - (sendTx (mkTok 0b11#2 0xFF#8) (enc .frame 3 [0xC0#8])).txQ.items.length < 3 := by decide

/-- TxInHeldKeepsOffer: two bytes free. -/
theorem witness_tx_in_held :
    (sendTx 0x042#10 (enc .frame 4 [0xC0#8, 0x41#8])).env.sched = .txIn :: [] ∧
    (sendTx 0x042#10 (enc .frame 4 [0xC0#8, 0x41#8])).txQ.cap
      - (sendTx 0x042#10 (enc .frame 4 [0xC0#8, 0x41#8])).txQ.items.length < 3 := by decide

/-- TxPopDeliversOldestByte: one byte queued, and none. -/
theorem witness_tx_pop :
    (turn .txOut (enc .idle 3 [0xC0#8])).env.sched = .txOut :: [] ∧
    (turn .txOut (enc .idle 3 [0xC0#8])).txQ.items = 0xC0#8 :: [] ∧
    (turn .txOut (enc .idle 3 [])).txQ.items = [] := by decide

/-- A token sent and a byte popped. -/
def runTx : State := { small with env := { small.env with sched := [.txIn, .txOut, .txOut], txIn := [0x200#10] } }

/-- EncoderRunIsDepthIndependent, with the queue empty at the end. -/
theorem witness_encoder_run : ∃ t h, Host.Core.run Sys2Proof.core 3 runTx = .next t ∧
    t.env.log = runTx.env.log ++ h ∧ Happening.reset ∉ h ∧ t.txQ.items = [] :=
  ⟨_, [.txIn 0x200#10, .txOut 0xC0#8, .txOut 0xC0#8], rfl, rfl, by decide, rfl⟩

/-- FrameTokensPushEncode: the frame of the empty payload. -/
theorem witness_frame_tokens : ∃ t h, runTx.txState = .idle ∧ Host.Core.run Sys2Proof.core 2 runTx = .next t ∧
    t.env.log = runTx.env.log ++ h ∧ Happening.reset ∉ h ∧
    (txInOf h).filter (fun u => tokKind u == 0b00#2 || tokKind u == 0b10#2)
      = ([] : List Byte).map (mkTok 0b00#2) ++ [mkTok 0b10#2 0x00#8] :=
  ⟨_, [.txIn 0x200#10, .txOut 0xC0#8], rfl, rfl, rfl, by decide, by decide⟩

/-- Two empty frames. -/
def runTwo : State := { small with env := { small.env with sched := [.txIn, .txIn], txIn := [0x200#10, 0x2AA#10] } }

/-- TwoFramesPushBothEncodings. -/
theorem witness_two_frames : ∃ t h, runTwo.txState = .idle ∧ Host.Core.run Sys2Proof.core 2 runTwo = .next t ∧
    t.env.log = runTwo.env.log ++ h ∧ Happening.reset ∉ h ∧
    txInOf h = ([] : List Byte).map (mkTok 0b00#2) ++ mkTok 0b10#2 0x00#8 ::
      (([] : List Byte).map (mkTok 0b00#2) ++ [mkTok 0b10#2 0xAA#8]) :=
  ⟨_, [.txIn 0x200#10, .txIn 0x2AA#10], rfl, rfl, rfl, by decide, rfl⟩

/-- BodyIsTransparent: an `ESC` in a body. -/
theorem witness_body_escape : (Codec.body [0x01#8, 0xC0#8])[1]? = some Config.esc := by decide

/-- EncodingLength: no special byte, and only special bytes. -/
theorem witness_encoding_length :
    (∀ b ∈ [0x00#8, 0xDC#8, 0xDD#8], b ≠ Config.delim ∧ b ≠ Config.esc) ∧
    (∀ b ∈ [0xC0#8, 0xDB#8], b = Config.delim ∨ b = Config.esc) := by decide

/-- EncodingIsInjective. -/
theorem witness_injective : Codec.body [0xDC#8] = Codec.body [0xDC#8] ∧ Codec.encode [] = Codec.encode [] := by decide

/-- FrameClosedOnlyByEofOrReset: closed by an `EOF`, and by reset. -/
theorem witness_frame_closed :
    (∃ t, step (sendTx 0x200#10 (enc .frame 3 [])) = .next t ∧
      (sendTx 0x200#10 (enc .frame 3 [])).txState = .frame ∧ t.txState = .idle) ∧
    (∃ t, step (turn .reset (enc .frame 3 [])) = .next t ∧ (turn .reset (enc .frame 3 [])).txState = .frame ∧
      t.txState = .idle) :=
  ⟨⟨_, rfl, rfl, rfl⟩, _, rfl, rfl, rfl⟩

/-- WireBytesClassified, DecoderFollowsTable and the symbol results: the "otherwise" bytes. -/
theorem witness_other_bytes : (0xDB#8 : Byte) ≠ 0xC0#8 ∧ (0xDC#8 : Byte) ≠ 0xC0#8 ∧ (0xDC#8 : Byte) ≠ 0xDB#8 ∧
    (0xDB#8 : Byte) ≠ 0xDC#8 ∧ (0xDB#8 : Byte) ≠ 0xDD#8 := by decide

/-- IdleSymbolResults, FrameSymbolResults, EscapeSymbolResults, DropSymbolResults, DecoderFollowsTable: in each
state one token free, and none. -/
theorem witness_rx_ready : ∀ st : RxState, (dec st 2 [0x001#10]).rxState = st ∧
    1 ≤ (dec st 2 [0x001#10]).rxQ.cap - (dec st 2 [0x001#10]).rxQ.items.length ∧
    (dec st 1 [0x001#10]).rxState = st ∧
    (dec st 1 [0x001#10]).rxQ.cap - (dec st 1 [0x001#10]).rxQ.items.length = 0 := by
  intro st; cases st <;> decide

/-- IdleSymbolResults, DropSymbolResults: the step clauses, an offered byte that is consumed, at the ready bound. -/
theorem witness_rx_consumed : ∀ st : RxState, (sendRx 0xDB#8 (dec st 1 [])).rxState = st ∧
    (sendRx 0xDB#8 (dec st 1 [])).env.sched = .rxIn :: [] ∧ (sendRx 0xDB#8 (dec st 1 [])).env.rxIn = 0xDB#8 :: [] ∧
    1 ≤ (sendRx 0xDB#8 (dec st 1 [])).rxQ.cap - (sendRx 0xDB#8 (dec st 1 [])).rxQ.items.length := by
  intro st; cases st <;> decide

/-- RxInHeldKeepsOffer: `rx_q` full. -/
theorem witness_rx_in_held : portOf .rxOpen = .rxIn ∧
    (sendRx 0xC0#8 (dec .idle 1 [0x001#10])).env.sched = .rxIn :: [] ∧
    (sendRx 0xC0#8 (dec .idle 1 [0x001#10])).rxQ.cap
      - (sendRx 0xC0#8 (dec .idle 1 [0x001#10])).rxQ.items.length = 0 := by decide

/-- OnlyForeignSymbolsRefused: a symbol of another state, and a delivery of another token. -/
theorem witness_foreign_symbol : exec .rxOpen (dec .frame 1 []) = .refused .notThatSymbol ∧
    exec .eof (dec .frame 2 [0x001#10]) = .refused .notThatSymbol := ⟨rfl, rfl⟩

/-- DeliveredTokenResults: each of the four forms at the head, and an empty queue. -/
theorem witness_delivered :
    (dec .idle 2 [0x0FF#10]).rxQ.items = mkTok 0b00#2 0xFF#8 :: [] ∧
    (dec .idle 2 [0x200#10]).rxQ.items = 0x200#10 :: [] ∧ (dec .idle 2 [0x301#10]).rxQ.items = 0x301#10 :: [] ∧
    (dec .drop 2 [0x302#10, 0x000#10]).rxQ.items = 0x302#10 :: [0x000#10] ∧
    portOf .eof = .rxOut ∧ (dec .idle 2 []).rxQ.items = [] := by decide

/-- RxPopDeliversOldestToken: one token queued, a produced one, and none. -/
theorem witness_rx_pop : (turn .rxOut (dec .idle 1 [0x301#10])).env.sched = .rxOut :: [] ∧
    (turn .rxOut (dec .idle 1 [0x301#10])).rxQ.items = 0x301#10 :: [] ∧
    (turn .rxOut (dec .idle 1 [0x301#10])).TokensProduced ∧ (turn .rxOut (dec .idle 1 [])).rxQ.items = [] := by
  refine ⟨rfl, rfl, fun t h => ?_, rfl⟩
  cases List.mem_singleton.mp h
  exact .inr (.inr (.inl (by decide)))

/-- OnlyTwoSymbolsRaise: both of them. -/
theorem witness_raise :
    (∃ t, exec .rxTrunc (dec .esc 1 []) = .next t ∧ t.rxQ.items = [] ++ [mkTok 0b11#2 0x01#8]) ∧
    (∃ t, exec (.rxBadEsc 0xDB#8) (dec .esc 1 []) = .next t ∧ t.rxQ.items = [] ++ [mkTok 0b11#2 0x02#8]) :=
  ⟨⟨_, rfl, rfl⟩, _, rfl, rfl⟩

/-- A byte sent in `RX_FRAME` and its token popped. -/
def runRx : State :=
  { dec .frame 1 [] with env := { small.env with sched := [.rxIn, .rxOut], rxIn := [0xC0#8] } }

/-- DecoderRunIsDepthIndependent, with the queue empty at the end. -/
theorem witness_decoder_run : ∃ t h, Host.Core.run Sys2Proof.core 2 runRx = .next t ∧
    t.env.log = runRx.env.log ++ h ∧ Happening.reset ∉ h ∧ t.rxQ.items = [] :=
  ⟨_, [.rxIn 0xC0#8, .rxOut 0x200#10], rfl, rfl, by decide, rfl⟩

/-- The empty frame sent over the perfect wire. -/
def runLoop : State := { small with env := { small.env with sched := [.txIn, .wire, .wire], txIn := [0x200#10] } }

/-- DecodeOfEncodeIsPayload: the loopback clause, the two runs being one. -/
theorem witness_loopback : ∃ t h, runLoop.txState = .idle ∧ runLoop.txQ.items = [] ∧
    Host.Core.run Sys2Proof.core 3 runLoop = .next t ∧ t.env.log = runLoop.env.log ++ h ∧ Happening.reset ∉ h ∧
    txInOf h = ([] : List Byte).map (mkTok 0b00#2) ++ [mkTok 0b10#2 0x00#8] ∧ t.txQ.items = [] ∧
    runLoop.rxState = .idle ∧ runLoop.rxQ.items = [] ∧ rxInOf h = txOutOf h :=
  ⟨_, [.txIn 0x200#10, .txOut 0xC0#8, .rxIn 0xC0#8, .txOut 0xC0#8, .rxIn 0xC0#8],
    rfl, rfl, rfl, rfl, by decide, rfl, rfl, rfl, rfl, rfl⟩

/-- WireTurnIsPopAndSymbol: one token free in `rx_q`, and none. -/
theorem witness_wire :
    (turn .wire (enc .idle 3 [0xC0#8])).env.sched = .wire :: [] ∧
    (turn .wire (enc .idle 3 [0xC0#8])).txQ.items = 0xC0#8 :: [] ∧
    1 ≤ (turn .wire (enc .idle 3 [0xC0#8])).rxQ.cap - (turn .wire (enc .idle 3 [0xC0#8])).rxQ.items.length ∧
    (turn .wire { enc .idle 3 [0xC0#8] with rxQ := ⟨1, [0x001#10]⟩ }).rxQ.cap
      - (turn .wire { enc .idle 3 [0xC0#8] with rxQ := ⟨1, [0x001#10]⟩ }).rxQ.items.length = 0 := by decide

/-- JunkAndFramesPushPayloads, ErrorsLeaveNoTrace: junk with no `DELIM`, a byte that completes no pair, and
dropped bytes. -/
theorem witness_junk : Config.delim ∉ [0x4F#8, 0xDB#8, 0xDC#8] ∧ (0xDB#8 : Byte) ≠ Config.escDelim ∧
    (0xDB#8 : Byte) ≠ Config.escEsc ∧ (0xDB#8 : Byte) ≠ Config.delim ∧
    Config.delim ∉ ([0xDB#8, 0xDC#8] : List Byte) := by decide

/-- DecodeAcceptsOnlyEncodings, DecodeReadsTokenStream, RecordsAreDecodeResults: every outcome of `decode`. -/
theorem witness_decode :
    Codec.decode [0x4F#8, 0xC0#8, 0x01#8, 0xC0#8, 0x07#8] = .frame [0x01#8] [0x07#8] ∧
    Codec.decode [0xC0#8, 0xDB#8, 0xC0#8, 0x07#8] = .error 0x01#8 [0x07#8] ∧
    Codec.decode [0xC0#8, 0xDB#8, 0x00#8, 0xC0#8, 0x07#8] = .error 0x02#8 [0x07#8] ∧
    Codec.decode [0xC0#8, 0x01#8, 0xDB#8] = .incomplete := by decide

/-- `CK.DATA 0x02; CK.ZERO; CK.SEED 0x5A`. -/
def runZero : State :=
  { small with env := { small.env with sched := [.ckIn, .ckIn, .ckIn], ckIn := [0x002#10, 0x2FF#10, 0x35A#10] } }

/-- ChecksumReadReturnsAccumulator: each clause. -/
theorem witness_checksum_read :
    (turn (.sample .ckOut) small).env.sched = .sample .ckOut :: [] ∧
    (turn (.sample .ckSeedO) small).env.sched = .sample .ckSeedO :: [] ∧
    (∃ t h, Host.Core.run Sys2Proof.core 3 runZero = .next t ∧ t.env.log = runZero.env.log ++ h ∧
      Happening.reset ∉ h ∧ ckInOf h = [0x002#10] ++ mkTok 0b10#2 0xFF#8 :: [0x35A#10] ∧
      ∀ u ∈ [0x35A#10], tokKind u = 0b10#2 ∨ tokKind u = 0b11#2) :=
  ⟨rfl, rfl, _, [.ckIn 0x002#10, .ckIn 0x2FF#10, .ckIn 0x35A#10], rfl, rfl, by decide, rfl, by decide⟩

/-- `CK.INIT; CK.SEED 0x5A; CK.DATA 0x02`. -/
def runSeed : State :=
  { small with env := { small.env with sched := [.ckIn, .ckIn, .ckIn], ckIn := [0x100#10, 0x35A#10, 0x002#10] } }

/-- ChecksumContinues. -/
theorem witness_checksum_continues : ∃ t h, Host.Core.run Sys2Proof.core 3 runSeed = .next t ∧
    t.env.log = runSeed.env.log ++ h ∧ Happening.reset ∉ h ∧
    ckInOf h = mkTok 0b01#2 0x00#8 :: (([] : List Byte).map (mkTok 0b00#2) ++ mkTok 0b11#2 0x5A#8 ::
      [0x02#8].map (mkTok 0b00#2)) :=
  ⟨_, [.ckIn 0x100#10, .ckIn 0x35A#10, .ckIn 0x002#10], rfl, rfl, by decide, rfl⟩

/-- `CK.INIT; CK.DATA 0x02`. -/
def runCk : State := { small with env := { small.env with sched := [.ckIn, .ckIn], ckIn := [0x100#10, 0x002#10] } }

/-- ChecksumOfPayload. -/
theorem witness_checksum_payload : ∃ t h, Host.Core.run Sys2Proof.core 2 runCk = .next t ∧
    t.env.log = runCk.env.log ++ h ∧ Happening.reset ∉ h ∧
    ckInOf h = mkTok 0b01#2 0x00#8 :: [0x02#8].map (mkTok 0b00#2) :=
  ⟨_, [.ckIn 0x100#10, .ckIn 0x002#10], rfl, rfl, by decide, rfl⟩

/-- ChecksumIsOrderIndependent, ChecksumDetection: K14's permutation, and equal checksums. -/
theorem witness_checksum_order : [0x03#8, 0x02#8, 0x01#8].Perm [0x01#8, 0x02#8, 0x03#8] ∧
    Codec.ck 0xEF#8 ([0x01#8] ++ 0x02#8 :: [0x03#8]) = Codec.ck 0xEF#8 ([0x01#8] ++ 0x02#8 :: [0x03#8]) := by decide

/-- ChecksumBytesCancel: a completed `CK.DATA`, and K7's pair. -/
theorem witness_checksum_cancel :
    (∃ t, exec (.ckData 0x01#8) (cks 0xEF#8 0xEF#8) = .next t) ∧
    (∀ b : Byte, [0xFF#8, 0xFF#8].count b % 2 = 0) := ⟨⟨_, rfl⟩, by decide⟩

/-- FrameOfEveryInstruction: an instruction of each unit that changes what it may. -/
theorem witness_frame :
    (∃ t, exec (.txData 0x01#8) (enc .idle 3 []) = .next t ∧ t.txState ≠ (enc .idle 3 []).txState ∧
      t.txQ ≠ (enc .idle 3 []).txQ) ∧
    (∃ t, exec .rxClose (dec .frame 1 []) = .next t ∧ t.rxState ≠ (dec .frame 1 []).rxState ∧
      t.rxQ ≠ (dec .frame 1 []).rxQ) ∧
    (∃ t, exec (.ckData 0x01#8) small = .next t ∧ t.ckAcc ≠ small.ckAcc) ∧
    (∃ t, exec (.ckSeed 0x5A#8) small = .next t ∧ t.ckSeed ≠ small.ckSeed) ∧
    (∃ t, exec .eof (dec .idle 1 [0x200#10]) = .next t ∧ t.rxQ ≠ (dec .idle 1 [0x200#10]).rxQ) :=
  ⟨⟨_, rfl, by decide, by decide⟩, ⟨_, rfl, by decide, by decide⟩, ⟨_, rfl, by decide⟩, ⟨_, rfl, by decide⟩,
    _, rfl, by decide⟩

/-- UnitsCommute: each pair of units. -/
theorem witness_units_commute :
    (∃ a b, (portOf (.txData 0x01#8) = .txIn ↔ portOf .rxOpen ≠ .txIn) ∧
      exec (.txData 0x01#8) small = .next a ∧ exec .rxOpen a = .next b) ∧
    (∃ a b, (portOf .rxOpen = .txIn ↔ portOf (.txEof 0x00#8) ≠ .txIn) ∧
      exec .rxOpen small = .next a ∧ exec (.txEof 0x00#8) a = .next b) ∧
    (∃ a b, (portOf (.ckInit 0x00#8) = .ckIn ↔ portOf (.txEof 0x00#8) ≠ .ckIn) ∧
      exec (.ckInit 0x00#8) small = .next a ∧ exec (.txEof 0x00#8) a = .next b) :=
  ⟨⟨_, _, by decide, rfl, rfl⟩, ⟨_, _, by decide, rfl, rfl⟩, _, _, by decide, rfl, rfl⟩

/-- PushAndPopCommute: room for the push and something to pop, at the bounds. -/
theorem witness_push_pop :
    (∃ a, 3 ≤ (enc .frame 4 [0xC0#8]).txQ.cap - (enc .frame 4 [0xC0#8]).txQ.items.length ∧
      (enc .frame 4 [0xC0#8]).txQ.items ≠ [] ∧ exec (decodeTxIn 0x0DB#10) (enc .frame 4 [0xC0#8]) = .next a) ∧
    (∃ a, 1 ≤ (dec .esc 2 [0x001#10]).rxQ.cap - (dec .esc 2 [0x001#10]).rxQ.items.length ∧
      (dec .esc 2 [0x001#10]).rxQ.items ≠ [] ∧
      exec (classify (dec .esc 2 [0x001#10]).rxState 0xDC#8) (dec .esc 2 [0x001#10]) = .next a) :=
  ⟨⟨_, by decide, by decide, rfl⟩, _, by decide, by decide, rfl⟩

/-- EveryTokenAccepted, StepRunsDecodedInstruction: each port with its datum, at the ready bounds. -/
theorem witness_ports :
    ((sendTx 0x3FF#10 (enc .idle 3 [])).env.sched = .txIn :: [] ∧
      (sendTx 0x3FF#10 (enc .idle 3 [])).env.txIn = 0x3FF#10 :: [] ∧
      3 ≤ (sendTx 0x3FF#10 (enc .idle 3 [])).txQ.cap - (sendTx 0x3FF#10 (enc .idle 3 [])).txQ.items.length) ∧
    ((sendRx 0xC0#8 (dec .idle 1 [])).env.sched = .rxIn :: [] ∧ (sendRx 0xC0#8 (dec .idle 1 [])).env.rxIn = 0xC0#8 :: [] ∧
      1 ≤ (sendRx 0xC0#8 (dec .idle 1 [])).rxQ.cap - (sendRx 0xC0#8 (dec .idle 1 [])).rxQ.items.length) ∧
    ((sendCk 0x3FF#10 small).env.sched = .ckIn :: [] ∧ (sendCk 0x3FF#10 small).env.ckIn = 0x3FF#10 :: []) ∧
    ((turn .rxOut (dec .idle 1 [0x200#10])).env.sched = .rxOut :: [] ∧
      (turn .rxOut (dec .idle 1 [0x200#10])).rxQ.items = 0x200#10 :: [] ∧ decodeRxOut 0x200#10 = .instr .eof) := by
  decide

/-- StepFollowsTransfers, EncoderDelimiterParity: a state that follows, and its step. -/
theorem witness_follows : runTx.Follows ∧ runTx.EncFollows ∧ ∃ t, step runTx = .next t :=
  ⟨⟨rfl, rfl, rfl⟩, rfl, _, rfl⟩

/-- StepKeepsQueueInvariants: a full `rx_q` of produced tokens. -/
theorem witness_queue_invariants : (turn .rxOut (dec .idle 1 [0x302#10])).QueuesFit ∧
    (turn .rxOut (dec .idle 1 [0x302#10])).TokensProduced ∧
    ∃ t, step (turn .rxOut (dec .idle 1 [0x302#10])) = .next t := by
  refine ⟨by unfold State.QueuesFit; decide, fun t h => ?_, _, rfl⟩
  cases List.mem_singleton.mp h
  exact .inr (.inr (.inr (by decide)))

/-- IdleCrossedOnlyByDelim: out of `RX_IDLE`, into it, and into it by reset. -/
theorem witness_idle_crossed :
    (∃ t, step (sendRx 0xC0#8 (dec .idle 1 [])) = .next t ∧
      ((sendRx 0xC0#8 (dec .idle 1 [])).rxState = .idle ↔ t.rxState ≠ .idle)) ∧
    (∃ t, step (sendRx 0xC0#8 (dec .drop 1 [])) = .next t ∧
      ((sendRx 0xC0#8 (dec .drop 1 [])).rxState = .idle ↔ t.rxState ≠ .idle)) ∧
    (∃ t, step (turn .reset (dec .esc 1 [])) = .next t ∧
      ((turn .reset (dec .esc 1 [])).rxState = .idle ↔ t.rxState ≠ .idle)) :=
  ⟨⟨_, rfl, by decide⟩, ⟨_, rfl, by decide⟩, _, rfl, by decide⟩

/-- DecodeOfEncodeIsInstruction: well-formed at the bounds of the "otherwise" rows, with and without a state. -/
theorem witness_round_trip :
    (Instr.rxBadEsc 0xDB#8).wellFormed = true ∧ rxStateOf (.rxBadEsc 0xDB#8) = some .esc ∧
    (Instr.rxLit 0xDC#8).wellFormed = true ∧ rxStateOf (.rxLit 0xDC#8) = some .frame ∧
    (Instr.txEof 0xFF#8).wellFormed = true ∧ rxStateOf (.txEof 0xFF#8) = none := by decide

/-- EncodeOfDecodeIsWord, DecoderFollowsOpcodeTable: a word that is an instruction, and one that is none. -/
theorem witness_decoded_word : decode .rxIn .esc .w16 0xDBDB#16 = .instr (.rxBadEsc 0xDB#8) ∧
    decode .rxOut .idle .t10 0x0100#16 = .reject .neverProduced ∧
    (⟨"EOF", .t10, 0x200, 0x3FF, 1, none, .rxOut⟩ : Row) ∈ opcodeTable ∧
    (⟨"EOF", .t10, 0x200, 0x3FF, 1, none, .rxOut⟩ : Row).selects 0x0200#16 = true := by decide

end Sys2Proof.Tests
end

section
/-! ### The state of FCE under its transfers -/

namespace Sys2Proof.Machine

/-! #### Tokens and the encoder's table by token form -/

/-- A token has one of the four kinds, over a data field (R66). -/
theorem token_forms (t : Token) :
    (∃ d, t = mkTok 0b00#2 d) ∨ (∃ d, t = mkTok 0b01#2 d) ∨ (∃ d, t = mkTok 0b10#2 d) ∨
      ∃ d, t = mkTok 0b11#2 d := by
  have ht : t = mkTok (tokKind t) (tokData t) := (mkTok_fields t).symm
  rcases kind_cases (tokKind t) with hk | hk | hk | hk <;> rw [hk] at ht
  · exact .inl ⟨_, ht⟩
  · exact .inr (.inl ⟨_, ht⟩)
  · exact .inr (.inr (.inl ⟨_, ht⟩))
  · exact .inr (.inr (.inr ⟨_, ht⟩))

theorem encRow_data (st : TxState) (b : Byte) :
    Codec.encRow st (mkTok 0b00#2 b) = (openingBytes st ++ escBytes b, .frame) := by
  cases st <;> simp only [Codec.encRow, tokKind_mkTok, tokData_mkTok, openingBytes, escBytes] <;>
    split_ifs <;> rfl

theorem encRow_eof (st : TxState) (d : Byte) :
    Codec.encRow st (mkTok 0b10#2 d) = (openingBytes st ++ [Config.delim], .idle) := by
  cases st <;> simp [Codec.encRow, openingBytes]

theorem encRow_rsvd1 (st : TxState) (d : Byte) : Codec.encRow st (mkTok 0b01#2 d) = ([], st) := by
  cases st <;> simp [Codec.encRow]

theorem encRow_rsvd3 (st : TxState) (d : Byte) : Codec.encRow st (mkTok 0b11#2 d) = ([], st) := by
  cases st <;> simp [Codec.encRow]

theorem ckRow_data (r : Byte × Byte) (b : Byte) : Codec.ckRow r (mkTok 0b00#2 b) = (r.1 ^^^ b, r.2) := by
  simp [Codec.ckRow]

theorem ckRow_init (r : Byte × Byte) (d : Byte) : Codec.ckRow r (mkTok 0b01#2 d) = (r.2, r.2) := by
  simp [Codec.ckRow]

theorem ckRow_zero (r : Byte × Byte) (d : Byte) : Codec.ckRow r (mkTok 0b10#2 d) = (0x00#8, r.2) := by
  simp [Codec.ckRow]

theorem ckRow_seed (r : Byte × Byte) (b : Byte) : Codec.ckRow r (mkTok 0b11#2 b) = (r.1, b) := by
  simp [Codec.ckRow]

/-- The bytes of `esc(b)` are one or two. -/
theorem escBytes_length_le (b : Byte) : (escBytes b).length ≤ 2 := by
  unfold escBytes; split_ifs <;> simp

/-- The opening delimiter is at most one byte. -/
theorem openingBytes_length_le (st : TxState) : (openingBytes st).length ≤ 1 := by
  cases st <;> simp [openingBytes]

/-- A token pushes at most three bytes, which is why `tx_in` waits for three free (R80, R88). -/
theorem encRow_length_le (st : TxState) (t : Token) : (Codec.encRow st t).1.length ≤ 3 := by
  have hopen := openingBytes_length_le st
  rcases token_forms t with ⟨d, rfl⟩ | ⟨d, rfl⟩ | ⟨d, rfl⟩ | ⟨d, rfl⟩
  · have := escBytes_length_le d
    rw [encRow_data, List.length_append]; omega
  · simp [encRow_rsvd1]
  · rw [encRow_eof, List.length_append, List.length_singleton]; omega
  · simp [encRow_rsvd3]

/-- DEC pushes only the forms of R69 (R113). -/
theorem decRow_produced (st : RxState) (w : Byte) : ∀ t ∈ (Codec.decRow st w).1.toList, Produced t := by
  have hData (b : Byte) : Produced (dataTok b) := .inl ⟨b, rfl⟩
  have hEof : Produced eofTok := .inr (.inl rfl)
  have hTrunc : Produced (errTok 0x01#8) := .inr (.inr (.inl rfl))
  have hBadEsc : Produced (errTok 0x02#8) := .inr (.inr (.inr rfl))
  cases st <;> simp only [Codec.decRow] <;> split_ifs <;> simp [hData, hEof, hTrunc, hBadEsc]

/-- A byte pushes at most one token (R100). -/
theorem decRow_length_le (st : RxState) (w : Byte) : (Codec.decRow st w).1.toList.length ≤ 1 := by
  cases (Codec.decRow st w).1 <;> simp

/-- Only `DELIM` leads DEC out of `RX_IDLE` or into it (R35 (d), R113). -/
theorem decRow_idle_iff (st : RxState) (w : Byte) (hw : w ≠ Config.delim) :
    (Codec.decRow st w).2 = .idle ↔ st = .idle := by
  cases st <;> simp only [Codec.decRow, if_neg hw] <;> split_ifs <;> simp

/-! #### What an accepted datum makes of the state, by the tables of R88, R113 and R131 to R134 -/

/-- The state after ENC has accepted a token (R88). -/
def State.acceptTx (s : State) (t : Token) : State :=
  (s.pushTx (Codec.encRow s.txState t).1).setTxState (Codec.encRow s.txState t).2

/-- The state after DEC has accepted a byte (R113). -/
def State.acceptRx (s : State) (w : Byte) : State :=
  { s with rxQ := s.rxQ.push (Codec.decRow s.rxState w).1.toList, rxState := (Codec.decRow s.rxState w).2 }

/-- The state after CKS has accepted a token (R131 to R134). -/
def State.acceptCk (s : State) (t : Token) : State :=
  (s.setCkAcc (Codec.ckRow (s.ckAcc, s.ckSeed) t).1).setCkSeed (Codec.ckRow (s.ckAcc, s.ckSeed) t).2

section Fields
variable (s : State) (t : Token) (w : Byte)

@[simp] theorem State.acceptTx_txState : (s.acceptTx t).txState = (Codec.encRow s.txState t).2 := rfl
@[simp] theorem State.acceptTx_txQ : (s.acceptTx t).txQ = s.txQ.push (Codec.encRow s.txState t).1 := rfl
@[simp] theorem State.acceptTx_rxState : (s.acceptTx t).rxState = s.rxState := rfl
@[simp] theorem State.acceptTx_rxQ : (s.acceptTx t).rxQ = s.rxQ := rfl
@[simp] theorem State.acceptTx_ckAcc : (s.acceptTx t).ckAcc = s.ckAcc := rfl
@[simp] theorem State.acceptTx_ckSeed : (s.acceptTx t).ckSeed = s.ckSeed := rfl
@[simp] theorem State.acceptTx_env : (s.acceptTx t).env = s.env := rfl

@[simp] theorem State.acceptRx_txState : (s.acceptRx w).txState = s.txState := rfl
@[simp] theorem State.acceptRx_txQ : (s.acceptRx w).txQ = s.txQ := rfl
@[simp] theorem State.acceptRx_rxState : (s.acceptRx w).rxState = (Codec.decRow s.rxState w).2 := rfl
@[simp] theorem State.acceptRx_rxQ : (s.acceptRx w).rxQ = s.rxQ.push (Codec.decRow s.rxState w).1.toList := rfl
@[simp] theorem State.acceptRx_ckAcc : (s.acceptRx w).ckAcc = s.ckAcc := rfl
@[simp] theorem State.acceptRx_ckSeed : (s.acceptRx w).ckSeed = s.ckSeed := rfl
@[simp] theorem State.acceptRx_env : (s.acceptRx w).env = s.env := rfl

@[simp] theorem State.acceptCk_txState : (s.acceptCk t).txState = s.txState := rfl
@[simp] theorem State.acceptCk_txQ : (s.acceptCk t).txQ = s.txQ := rfl
@[simp] theorem State.acceptCk_rxState : (s.acceptCk t).rxState = s.rxState := rfl
@[simp] theorem State.acceptCk_rxQ : (s.acceptCk t).rxQ = s.rxQ := rfl
@[simp] theorem State.acceptCk_ckAcc : (s.acceptCk t).ckAcc = (Codec.ckRow (s.ckAcc, s.ckSeed) t).1 := rfl
@[simp] theorem State.acceptCk_ckSeed : (s.acceptCk t).ckSeed = (Codec.ckRow (s.ckAcc, s.ckSeed) t).2 := rfl
@[simp] theorem State.acceptCk_env : (s.acceptCk t).env = s.env := rfl

end Fields

/-! #### A pop, empty queue or not (R84, R112) -/

@[simp] theorem Queue.push_nil {α : Type} (q : Queue α) : q.push [] = q := by
  simp [Queue.push]

theorem Queue.pop_of_items_nil {α : Type} (q : Queue α) (h : q.items = []) : q.pop = q := by
  cases q; cases h; rfl

/-- TX.POP writes `tx_q` and the record, and nothing else. -/
theorem State.popTx_eq (s : State) :
    s.popTx = { s with
      txQ := s.txQ.pop
      env := { s.env with log := s.env.log ++ s.txQ.items.head?.toList.map .txOut } } := by
  cases hq : s.txQ.items with
  | nil => simp [s.popTx_nil hq, Queue.pop_of_items_nil _ hq]
  | cons w ws => simp [s.popTx_cons w ws hq, Queue.pop, hq]

/-- RX.POP writes `rx_q` and the record, and nothing else. -/
theorem State.popRx_eq (s : State) :
    s.popRx = { s with
      rxQ := s.rxQ.pop
      env := { s.env with log := s.env.log ++ s.rxQ.items.head?.toList.map .rxOut } } := by
  cases hq : s.rxQ.items with
  | nil => simp [s.popRx_nil hq, Queue.pop_of_items_nil _ hq]
  | cons t ts => simp [s.popRx_cons t ts hq, Queue.pop, hq]

section Fields
variable (s : State)

@[simp] theorem State.popTx_txState : s.popTx.txState = s.txState := by rw [popTx_eq]
@[simp] theorem State.popTx_txQ : s.popTx.txQ = s.txQ.pop := by rw [popTx_eq]
@[simp] theorem State.popTx_rxState : s.popTx.rxState = s.rxState := by rw [popTx_eq]
@[simp] theorem State.popTx_rxQ : s.popTx.rxQ = s.rxQ := by rw [popTx_eq]
@[simp] theorem State.popTx_ckAcc : s.popTx.ckAcc = s.ckAcc := by rw [popTx_eq]
@[simp] theorem State.popTx_ckSeed : s.popTx.ckSeed = s.ckSeed := by rw [popTx_eq]
@[simp] theorem State.popTx_env :
    s.popTx.env = { s.env with log := s.env.log ++ s.txQ.items.head?.toList.map .txOut } := by rw [popTx_eq]

@[simp] theorem State.popRx_txState : s.popRx.txState = s.txState := by rw [popRx_eq]
@[simp] theorem State.popRx_txQ : s.popRx.txQ = s.txQ := by rw [popRx_eq]
@[simp] theorem State.popRx_rxState : s.popRx.rxState = s.rxState := by rw [popRx_eq]
@[simp] theorem State.popRx_rxQ : s.popRx.rxQ = s.rxQ.pop := by rw [popRx_eq]
@[simp] theorem State.popRx_ckAcc : s.popRx.ckAcc = s.ckAcc := by rw [popRx_eq]
@[simp] theorem State.popRx_ckSeed : s.popRx.ckSeed = s.ckSeed := by rw [popRx_eq]
@[simp] theorem State.popRx_env :
    s.popRx.env = { s.env with log := s.env.log ++ s.rxQ.items.head?.toList.map .rxOut } := by rw [popRx_eq]

end Fields

/-! #### exec by the tables -/

/-- A reserved token leaves ENC as it is (R83). -/
theorem State.acceptTx_of_encRow_nil (s : State) (t : Token) (h : Codec.encRow s.txState t = ([], s.txState)) :
    s.acceptTx t = s := by
  simp [State.acceptTx, h, State.pushTx, State.setTxState]

/-- A token on `tx_in`, ready or held: its row of R88 (R80). -/
theorem exec_decodeTxIn (t : Token) (s : State) : exec (decodeTxIn t) s = onTxIn s (s.acceptTx t) := by
  rcases token_forms t with ⟨d, rfl⟩ | ⟨d, rfl⟩ | ⟨d, rfl⟩ | ⟨d, rfl⟩
  · rw [decodeTxIn_data, State.acceptTx, encRow_data]; rfl
  · rw [decodeTxIn_rsvd1, s.acceptTx_of_encRow_nil _ (encRow_rsvd1 _ _)]; rfl
  · rw [decodeTxIn_eof, State.acceptTx, encRow_eof]; rfl
  · rw [decodeTxIn_rsvd3, s.acceptTx_of_encRow_nil _ (encRow_rsvd3 _ _)]; rfl

theorem exec_decodeTxIn_ready (t : Token) (s : State) (h : 3 ≤ s.txQ.free) :
    exec (decodeTxIn t) s = .next (s.acceptTx t) := by
  rw [exec_decodeTxIn, onTxIn_ready _ _ h]

/-- A byte whose row pushes nothing writes `rx_state` only. -/
theorem State.acceptRx_of_none (s : State) (w : Byte) (v : RxState) (h : Codec.decRow s.rxState w = (none, v)) :
    s.acceptRx w = s.setRxState v := by
  simp [State.acceptRx, h, State.setRxState]

/-- A byte whose row pushes a token pushes it and writes `rx_state`. -/
theorem State.acceptRx_of_some (s : State) (w : Byte) (t : Token) (v : RxState)
    (h : Codec.decRow s.rxState w = (some t, v)) : s.acceptRx w = (s.pushRx t).setRxState v := by
  simp [State.acceptRx, h, State.setRxState, State.pushRx]

theorem State.setRxState_same (s : State) (v : RxState) (h : s.rxState = v) : s.setRxState v = s := by
  simp [State.setRxState, ← h]

/-- A byte on `rx_in`, ready or held: its row of R113 (R100). -/
theorem exec_classify (w : Byte) (s : State) :
    exec (classify s.rxState w) s = onRxIn (classify s.rxState w) w s (s.acceptRx w) := by
  have silent {v} := s.acceptRx_of_none w v
  have pushing {u v} := s.acceptRx_of_some w u v
  cases hst : s.rxState <;> rw [hst] at silent pushing <;>
    simp only [classify, Codec.decRow] at silent pushing ⊢
  case idle =>
    split_ifs at silent ⊢ with hdelim
    · rw [silent rfl, hdelim]; rfl
    · rw [silent rfl, s.setRxState_same _ hst]; rfl
  case frame =>
    split_ifs at silent pushing ⊢ with hdelim hesc
    · rw [pushing rfl, hdelim]; rfl
    · rw [silent rfl, hesc]; rfl
    · rw [pushing rfl, (s.pushRx _).setRxState_same _ hst]; rfl
  case esc =>
    split_ifs at pushing ⊢ with hescDelim hescEsc hdelim
    · rw [pushing rfl, hescDelim]; rfl
    · rw [pushing rfl, hescEsc]; rfl
    · rw [pushing rfl, hdelim]; rfl
    · rw [pushing rfl]; rfl
  case drop =>
    split_ifs at silent ⊢ with hdelim
    · rw [silent rfl, hdelim]; rfl
    · rw [silent rfl, s.setRxState_same _ hst]; rfl

theorem exec_classify_ready (w : Byte) (s : State) (h : 1 ≤ s.rxQ.free) :
    exec (classify s.rxState w) s = .next (s.acceptRx w) := by
  rw [exec_classify, onRxIn_ready _ _ _ _ h rfl]

/-- A token on `ck_in`: its row of R131 to R134; `ck_in` holds nothing (R130). -/
theorem exec_decodeCkIn (t : Token) (s : State) : exec (decodeCkIn t) s = .next (s.acceptCk t) := by
  rcases token_forms t with ⟨d, rfl⟩ | ⟨d, rfl⟩ | ⟨d, rfl⟩ | ⟨d, rfl⟩
  · rw [decodeCkIn_data, State.acceptCk, ckRow_data]; rfl
  · rw [decodeCkIn_init, State.acceptCk, ckRow_init]; rfl
  · rw [decodeCkIn_zero, State.acceptCk, ckRow_zero]; rfl
  · rw [decodeCkIn_seed, State.acceptCk, ckRow_seed]; rfl

/-- Every row of `tx_in` is read from some token (R67). -/
theorem exists_decodeTxIn (i : Instr) (h : portOf i = .txIn) : ∃ t, decodeTxIn t = i := by
  cases i <;> cases h
  case txData b => exact ⟨_, decodeTxIn_data b⟩
  case txEof d => exact ⟨_, decodeTxIn_eof d⟩
  case txRsvd1 d => exact ⟨_, decodeTxIn_rsvd1 d⟩
  case txRsvd3 d => exact ⟨_, decodeTxIn_rsvd3 d⟩

/-- Every row of `ck_in` is read from some token (R68). -/
theorem exists_decodeCkIn (i : Instr) (h : portOf i = .ckIn) : ∃ t, decodeCkIn t = i := by
  cases i <;> cases h
  case ckData b => exact ⟨_, decodeCkIn_data b⟩
  case ckInit d => exact ⟨_, decodeCkIn_init d⟩
  case ckZero d => exact ⟨_, decodeCkIn_zero d⟩
  case ckSeed b => exact ⟨_, decodeCkIn_seed b⟩

/-- What the decoder of `rx_out` answers is a row of `rx_out` (R69). -/
theorem portOf_of_decodeRxOut (t : Token) (i : Instr) (h : decodeRxOut t = .instr i) : portOf i = .rxOut := by
  rcases decodeRxOut_eq_instr t i h with ⟨b, -, rfl⟩ | ⟨-, rfl⟩ | ⟨-, rfl⟩ | ⟨-, rfl⟩ <;> rfl

/-- A symbol on a full `rx_q` is held, whatever it is (R100). -/
theorem exec_rxIn_held (i : Instr) (s : State) (hp : portOf i = .rxIn) (h : s.rxQ.free = 0) :
    exec i s = .next s := by
  obtain ⟨w, after, -, he⟩ := exec_of_rxIn i s hp
  rw [he, onRxIn_held i w s after h]

/-- A symbol that is not held is the class of its byte in `rx_state` (R62). -/
theorem classify_of_exec (i : Instr) (s t : State) (hp : portOf i = .rxIn) (hf : 1 ≤ s.rxQ.free)
    (h : exec i s = .next t) : ∃ w, classify s.rxState w = i := by
  obtain ⟨w, after, -, he⟩ := exec_of_rxIn i s hp
  rcases onRxIn_cases i w s after t (he ▸ h) with ⟨-, hc, -⟩ | ⟨hz, -⟩
  · exact ⟨w, hc⟩
  · omega

/-! #### Everything an instruction can do, and everything a step can do -/

/-- What `exec i` can make of `s`. -/
inductive Effect (s : State) : Instr → State → Prop
  /-- the transfer is held, or `rx_q` has nothing to deliver -/
  | held (i : Instr) : Effect s i s
  | tx (t : Token) (hfree : 3 ≤ s.txQ.free) : Effect s (decodeTxIn t) (s.acceptTx t)
  | rx (w : Byte) (hfree : 1 ≤ s.rxQ.free) : Effect s (classify s.rxState w) (s.acceptRx w)
  | ck (t : Token) : Effect s (decodeCkIn t) (s.acceptCk t)
  | deliver (i : Instr) (u : Token) (us : List Token) (hq : s.rxQ.items = u :: us)
      (hd : decodeRxOut u = .instr i) : Effect s i s.popRx

theorem effect_of_exec (i : Instr) (s t : State) (h : exec i s = .next t) : Effect s i t := by
  cases hp : portOf i with
  | txIn =>
    obtain ⟨u, rfl⟩ := exists_decodeTxIn i hp
    rcases onTxIn_cases _ _ _ (exec_decodeTxIn u s ▸ h) with ⟨hfree, rfl⟩ | ⟨-, rfl⟩
    · exact .tx u hfree
    · exact .held _
  | rxIn =>
    rcases Nat.eq_zero_or_pos s.rxQ.free with hz | hfree
    · rw [exec_rxIn_held i s hp hz] at h; cases h
      exact .held _
    · obtain ⟨w, rfl⟩ := classify_of_exec i s t hp hfree h
      rw [exec_classify_ready w s hfree] at h; cases h
      exact .rx w hfree
  | ckIn =>
    obtain ⟨u, rfl⟩ := exists_decodeCkIn i hp
    rw [exec_decodeCkIn] at h; cases h
    exact .ck u
  | rxOut =>
    rcases onRxOut_cases i s t (exec_of_rxOut i s hp ▸ h) with ⟨-, rfl⟩ | ⟨u, us, hq, hd, rfl⟩
    · exact .held _
    · exact .deliver i u us hq hd
  | txOut => exact absurd hp (portOf_ne_txOut i)

/-- What one turn can make of `s`, in which the turn is already used up. -/
inductive Turn (s : State) : State → Prop
  /-- nothing scheduled, nothing offered, or held -/
  | idle : Turn s s
  | txIn (t : Token) (more : List Token) (ho : s.env.txIn = t :: more) (hfree : 3 ≤ s.txQ.free) :
      Turn s ((s.takeTxIn t more).acceptTx t)
  | rxIn (w : Byte) (more : List Byte) (ho : s.env.rxIn = w :: more) (hfree : 1 ≤ s.rxQ.free) :
      Turn s ((s.takeRxIn w more).acceptRx w)
  | ckIn (t : Token) (more : List Token) (ho : s.env.ckIn = t :: more) :
      Turn s ((s.takeCkIn t more).acceptCk t)
  | wire (w : Byte) (ws : List Byte) (hq : s.txQ.items = w :: ws) (hfree : 1 ≤ s.rxQ.free) :
      Turn s ((s.popTx.record (.rxIn w)).acceptRx w)
  | txOut : Turn s s.popTx
  | rxOut : Turn s s.popRx
  | sample (p : Pin) : Turn s (s.record (.sampled (s.pinValue p)))
  | reset : Turn s (s.resetEdge.record .reset)

/-- A turn that transfers an instruction. -/
theorem turn_of_fetch_some (e : Event) (s s' t : State) (i : Instr) (hf : fetch e s = some (i, s'))
    (h : exec i s' = .next t) : Turn s t := by
  rcases fetch_cases e s s' i hf with ⟨u, more, -, ho, hfree, rfl, rfl⟩ | ⟨w, more, -, ho, hfree, rfl, rfl⟩ |
    ⟨u, more, -, ho, rfl, rfl⟩ | ⟨w, ws, -, hq, hfree, rfl, rfl⟩ | ⟨u, us, -, hq, hd, rfl⟩
  · cases h.symm.trans (exec_decodeTxIn_ready u (s.takeTxIn u more) hfree)
    exact .txIn u more ho hfree
  · cases h.symm.trans (exec_classify_ready w (s.takeRxIn w more) hfree)
    exact .rxIn w more ho hfree
  · cases h.symm.trans (exec_decodeCkIn u (s.takeCkIn u more))
    exact .ckIn u more ho
  · have hx := exec_classify_ready w (s.popTx.record (.rxIn w)) (by simpa using hfree)
    rw [State.record_rxState, State.popTx_rxState] at hx
    cases h.symm.trans hx
    exact .wire w ws hq hfree
  · rw [exec_of_rxOut i _ (portOf_of_decodeRxOut u i hd), onRxOut_cons i _ u us hq hd] at h; cases h
    exact .rxOut

/-- A turn that transfers no instruction. -/
theorem turn_eventEffect (e : Event) (s : State) : Turn s (eventEffect e s) := by
  cases e with
  | txOut => exact .txOut
  | rxOut => exact .rxOut
  | sample p => exact .sample p
  | reset => exact .reset
  | txIn | rxIn | ckIn | wire => exact .idle

/-- Everything a step can do. -/
theorem turn_of_step (s t : State) (h : step s = .next t) : ∃ rest, Turn (s.setSched rest) t := by
  cases hs : s.env.sched with
  | nil =>
    rw [step_nil s hs] at h; cases h
    exact ⟨s.env.sched, .idle⟩
  | cons e rest =>
    refine ⟨rest, ?_⟩
    cases hf : fetch e (s.setSched rest) with
    | none =>
      rw [step_none s e rest hs hf] at h; cases h
      exact turn_eventEffect e _
    | some r =>
      obtain ⟨i, s'⟩ := r
      rw [step_some s e rest i s' hs hf] at h
      exact turn_of_fetch_some e _ s' t i hf h

end Sys2Proof.Machine

namespace Sys2Proof.Machine
/-! ### The queues' invariants (R35 (a), (b), R12) -/

/-- A turn changes no depth: the capacities are parameters (R12, R33). -/
theorem Turn.cap_eq {s t : State} (h : Turn s t) : t.txQ.cap = s.txQ.cap ∧ t.rxQ.cap = s.rxQ.cap := by
  cases h <;> simp

/-- A turn keeps both queues within their capacities: a token pushes at most the three bytes it waits for, a byte
at most the one token it waits for, and nothing else pushes. -/
theorem Turn.len_le_cap {s t : State} (h : Turn s t) (htx : s.txQ.len ≤ s.txQ.cap) (hrx : s.rxQ.len ≤ s.rxQ.cap) :
    t.txQ.len ≤ t.txQ.cap ∧ t.rxQ.len ≤ t.rxQ.cap := by
  have hpush (w : Byte) (hfree : 1 ≤ s.rxQ.free) :=
    s.rxQ.push_len_le _ ((decRow_length_le s.rxState w).trans hfree) hrx
  cases h with
  | idle => exact ⟨htx, hrx⟩
  | txIn u more _ hfree => exact ⟨s.txQ.push_len_le _ ((encRow_length_le s.txState u).trans hfree) htx, hrx⟩
  | rxIn w more _ hfree => exact ⟨htx, hpush w hfree⟩
  | ckIn u more => exact ⟨htx, hrx⟩
  | wire w ws _ hfree => simpa using And.intro (s.txQ.pop_len_le htx) (hpush w hfree)
  | txOut => simpa using And.intro (s.txQ.pop_len_le htx) hrx
  | rxOut => simpa using And.intro htx (s.rxQ.pop_len_le hrx)
  | sample p => exact ⟨htx, hrx⟩
  | reset => simp [Queue.len]

theorem Turn.queuesFit {s t : State} (h : Turn s t) (hs : s.QueuesFit) : t.QueuesFit := by
  obtain ⟨htxCap, hrxCap, htx, hrx⟩ := hs
  have hcap := h.cap_eq
  exact ⟨hcap.1 ▸ htxCap, hcap.2 ▸ hrxCap, h.len_le_cap htx hrx⟩

/-- A turn adds to `rx_q` at most the token of a row of R113. -/
theorem Turn.tokensProduced {s t : State} (h : Turn s t) (hs : s.TokensProduced) : t.TokensProduced := by
  have hpush (w : Byte) : ∀ u ∈ (s.rxQ.push (Codec.decRow s.rxState w).1.toList).items, Produced u := fun u hu =>
    (List.mem_append.mp hu).elim (hs u) (decRow_produced s.rxState w u)
  cases h with
  | idle | txIn _ _ _ _ | ckIn _ _ _ | sample _ => exact hs
  | rxIn w more => exact hpush w
  | wire w ws => simpa [State.TokensProduced] using hpush w
  | txOut => simpa [State.TokensProduced] using hs
  | rxOut => exact fun u hu => hs u (List.mem_of_mem_tail (by simpa using hu))
  | reset => simp [State.TokensProduced]

/-- Settles O54, by the cases of a turn. -/
theorem stepKeepsQueueInvariants : Obligations.StepKeepsQueueInvariants := by
  intro s t h
  obtain ⟨rest, hturn⟩ := turn_of_step s t h
  exact ⟨hturn.queuesFit, hturn.tokensProduced, hturn.cap_eq⟩

/-! ### The frame of every instruction (R34) -/

/-- A token that changes ENC is TX.DATA or TX.EOF (R81 to R83). -/
theorem State.acceptTx_eq_self_or (s : State) (t : Token) :
    s.acceptTx t = s ∨ (∃ b, decodeTxIn t = .txData b) ∨ ∃ d, decodeTxIn t = .txEof d := by
  rcases token_forms t with ⟨d, rfl⟩ | ⟨d, rfl⟩ | ⟨d, rfl⟩ | ⟨d, rfl⟩
  · exact .inr (.inl ⟨d, decodeTxIn_data d⟩)
  · exact .inl (s.acceptTx_of_encRow_nil _ (encRow_rsvd1 _ d))
  · exact .inr (.inr ⟨d, decodeTxIn_eof d⟩)
  · exact .inl (s.acceptTx_of_encRow_nil _ (encRow_rsvd3 _ d))

/-- A token that changes `ck_acc` is CK.DATA, CK.INIT or CK.ZERO; one that changes `ck_seed` is CK.SEED (R131 to
R134). -/
theorem State.acceptCk_frame (s : State) (t : Token) :
    ((s.acceptCk t).ckAcc ≠ s.ckAcc →
      (∃ b, decodeCkIn t = .ckData b) ∨ (∃ d, decodeCkIn t = .ckInit d) ∨ ∃ d, decodeCkIn t = .ckZero d) ∧
    ((s.acceptCk t).ckSeed ≠ s.ckSeed → ∃ b, decodeCkIn t = .ckSeed b) := by
  rcases token_forms t with ⟨d, rfl⟩ | ⟨d, rfl⟩ | ⟨d, rfl⟩ | ⟨d, rfl⟩
  · exact ⟨fun _ => .inl ⟨d, decodeCkIn_data d⟩, fun h => absurd (by simp [ckRow_data]) h⟩
  · exact ⟨fun _ => .inr (.inl ⟨d, decodeCkIn_init d⟩), fun h => absurd (by simp [ckRow_init]) h⟩
  · exact ⟨fun _ => .inr (.inr ⟨d, decodeCkIn_zero d⟩), fun h => absurd (by simp [ckRow_zero]) h⟩
  · exact ⟨fun h => absurd (by simp [ckRow_seed]) h, fun _ => ⟨d, decodeCkIn_seed d⟩⟩

/-- Settles O46, by the cases of an instruction's effect. -/
theorem frameOfEveryInstruction : Obligations.FrameOfEveryInstruction := by
  intro i s t h
  cases effect_of_exec i s t h with
  | held => simp
  | tx u =>
    rcases s.acceptTx_eq_self_or u with hsame | hwrites
    · simp [hsame]
    · simp [hwrites]
  | rx w => simp [portOf_classify]
  | ck u =>
    obtain ⟨hacc, hseed⟩ := s.acceptCk_frame u
    exact ⟨by simp, by simp, by simp, by simp, hacc, hseed, rfl, rfl, .inl rfl⟩
  | deliver _ u us hq hd =>
    have hp := portOf_of_decodeRxOut u i hd
    simp [hp, hq]

/-! ### Units commute -/

/-- The three units of FCE (R2). -/
inductive FceUnit where
  | enc | dec | cks

/-- The unit that executes an instruction. -/
def unitOf (i : Instr) : FceUnit :=
  match portOf i with
  | .txIn | .txOut => .enc
  | .rxIn | .rxOut => .dec
  | .ckIn => .cks

/-- `s` with the items of state of one unit taken from `r`.  The environment goes with DEC, whose deliveries are
the only instructions that write to it (log entry 8). -/
def State.withUnit (s : State) (u : FceUnit) (r : State) : State :=
  match u with
  | .enc => { s with txState := r.txState, txQ := r.txQ }
  | .dec => { s with rxState := r.rxState, rxQ := r.rxQ, env := r.env }
  | .cks => { s with ckAcc := r.ckAcc, ckSeed := r.ckSeed }

@[simp] theorem State.withUnit_self (s : State) (u : FceUnit) : s.withUnit u s = s := by
  cases u <;> rfl

/-- Another unit's items do not matter to the items that are taken. -/
theorem State.withUnit_withUnit_of_ne (s r q : State) (u v : FceUnit) (h : u ≠ v) :
    s.withUnit u (r.withUnit v q) = s.withUnit u r := by
  cases u <;> cases v <;> simp [State.withUnit] at h ⊢

theorem State.withUnit_comm (s r q : State) (u v : FceUnit) (h : u ≠ v) :
    (s.withUnit u r).withUnit v q = (s.withUnit v q).withUnit u r := by
  cases u <;> cases v <;> simp [State.withUnit] at h ⊢

/-- An instruction reads and writes the items of its own unit only. -/
theorem exec_withUnit (i : Instr) (s a : State) (h : exec i s = .next a) (r : State) :
    exec i (r.withUnit (unitOf i) s) = .next (r.withUnit (unitOf i) a) := by
  unfold unitOf
  cases hp : portOf i with
  | txIn =>
    obtain ⟨t, rfl⟩ := exists_decodeTxIn i hp
    rw [exec_decodeTxIn] at h ⊢
    rcases onTxIn_cases _ _ _ h with ⟨hfree, rfl⟩ | ⟨hfree, rfl⟩
    · exact onTxIn_ready (r.withUnit .enc s) _ hfree
    · exact onTxIn_held (r.withUnit .enc a) _ hfree
  | rxIn =>
    rcases Nat.eq_zero_or_pos s.rxQ.free with hz | hfree
    · rw [exec_rxIn_held i s hp hz] at h; cases h
      exact exec_rxIn_held i _ hp hz
    · obtain ⟨w, rfl⟩ := classify_of_exec i s a hp hfree h
      rw [exec_classify_ready w s hfree] at h; cases h
      exact exec_classify_ready w (r.withUnit .dec s) hfree
  | ckIn =>
    obtain ⟨t, rfl⟩ := exists_decodeCkIn i hp
    rw [exec_decodeCkIn] at h ⊢; cases h
    rfl
  | rxOut =>
    rw [exec_of_rxOut i _ hp] at h ⊢
    rcases onRxOut_cases i s a h with ⟨hq, rfl⟩ | ⟨u, us, hq, hd, rfl⟩
    · exact onRxOut_nil i (r.withUnit .dec a) hq
    · rw [onRxOut_cons i (r.withUnit .dec s) u us hq hd, State.popRx_eq, State.popRx_eq]; rfl
  | txOut => exact absurd hp (portOf_ne_txOut i)

/-- What an instruction answers differs from the state before in its own unit only. -/
theorem eq_withUnit_of_exec (i : Instr) (s a : State) (h : exec i s = .next a) : a = s.withUnit (unitOf i) a := by
  have hs := exec_withUnit i s a h s
  rw [State.withUnit_self, h] at hs
  exact Host.Outcome.next.inj hs

/-- Two instructions of different units commute. -/
theorem exec_comm (i j : Instr) (s a b : State) (hne : unitOf i ≠ unitOf j) (hi : exec i s = .next a)
    (hj : exec j a = .next b) : ∃ c, exec j s = .next c ∧ exec i c = .next b := by
  have ha := eq_withUnit_of_exec i s a hi
  have hb := eq_withUnit_of_exec j a b hj
  refine ⟨s.withUnit (unitOf j) b, ?_, ?_⟩
  · have hsame : s.withUnit (unitOf j) a = s := by
      rw [ha, State.withUnit_withUnit_of_ne _ _ _ _ _ hne.symm, State.withUnit_self]
    rw [← exec_withUnit j a b hj s, hsame]
  · have hsame : (s.withUnit (unitOf j) b).withUnit (unitOf i) s = s.withUnit (unitOf j) b := by
      rw [State.withUnit_comm _ _ _ _ _ hne.symm, State.withUnit_self]
    have hlast : (s.withUnit (unitOf j) b).withUnit (unitOf i) a = b := by
      rw [State.withUnit_comm _ _ _ _ _ hne.symm, ← ha, ← hb]
    rw [← hlast, ← exec_withUnit i s a hi, hsame, hlast]

/-- The unit of an instruction is told by its port. -/
theorem unitOf_ne_of_portOf (i j : Instr)
    (h : (portOf i = .txIn ↔ portOf j ≠ .txIn) ∨ (portOf i = .ckIn ↔ portOf j ≠ .ckIn)) : unitOf i ≠ unitOf j := by
  have hi := portOf_ne_txOut i
  have hj := portOf_ne_txOut j
  unfold unitOf
  cases hpi : portOf i <;> cases hpj : portOf j <;> simp_all

/-- Settles O47: different units read and write different items. -/
theorem unitsCommute : Obligations.UnitsCommute :=
  fun i j s a b hunits => exec_comm i j s a b (unitOf_ne_of_portOf i j hunits)

/-! ### A push and a pop of one queue commute (R31) -/

theorem Queue.free_le_pop_free {α : Type} (q : Queue α) : q.free ≤ q.pop.free := by
  simp only [Queue.free, Queue.pop_cap, Queue.pop_items, List.length_tail]
  omega

/-- Where there is something to pop, a push does not change what is popped. -/
theorem Queue.pop_push {α : Type} (q : Queue α) (vs : List α) (h : q.items ≠ []) :
    (q.push vs).pop = q.pop.push vs := by
  simp [Queue.push, Queue.pop, List.tail_append_of_ne_nil h]

theorem State.popTx_acceptTx (s : State) (t : Token) (h : s.txQ.items ≠ []) :
    (s.acceptTx t).popTx = s.popTx.acceptTx t := by
  simp only [State.popTx_eq, State.acceptTx, State.pushTx, State.setTxState, Queue.pop_push _ _ h,
    Queue.push_items, List.head?_append_of_ne_nil _ h]

theorem State.popRx_acceptRx (s : State) (w : Byte) (h : s.rxQ.items ≠ []) :
    (s.acceptRx w).popRx = s.popRx.acceptRx w := by
  simp only [State.popRx_eq, State.acceptRx, Queue.pop_push _ _ h, Queue.push_items,
    List.head?_append_of_ne_nil _ h]

/-- Settles O48: both orders are enabled, and the queue is the same after both. -/
theorem pushAndPopCommute : Obligations.PushAndPopCommute := by
  constructor
  · intro t s a hfree hne h
    have hpop : 3 ≤ s.popTx.txQ.free := by simpa using hfree.trans s.txQ.free_le_pop_free
    cases h.symm.trans (exec_decodeTxIn_ready t s hfree)
    rw [s.popTx_acceptTx t hne, exec_decodeTxIn_ready t _ hpop]
  · intro w s a hfree hne h
    have hpop : 1 ≤ s.popRx.rxQ.free := by simpa using hfree.trans s.rxQ.free_le_pop_free
    cases h.symm.trans (exec_classify_ready w s hfree)
    rw [s.popRx_acceptRx w hne, ← exec_classify_ready w _ hpop, State.popRx_rxState]

/-! ### The parity of the delimiters (R35 (c)) -/

/-- How many of the delimiters pushed are opening ones whose frame is not closed. -/
def openFrames : TxState → Nat
  | .idle => 0
  | .frame => 1

/-- An escaped byte holds no `DELIM`. -/
theorem count_delim_escBytes (b : Byte) : (escBytes b).count Config.delim = 0 := by
  rw [List.count_eq_zero]
  unfold escBytes
  split_ifs with hdelim hesc
  · simp
  · simp
  · simpa using Ne.symm hdelim

/-- A frame that is not open is opened by one `DELIM`. -/
theorem openFrames_add_count_openingBytes (st : TxState) :
    openFrames st + (openingBytes st).count Config.delim = 1 := by
  cases st <;> simp [openFrames, openingBytes]

/-- Every row of R88 keeps the delimiters pushed even exactly when no frame is open. -/
theorem encRow_delim_parity (st : TxState) (t : Token) :
    (openFrames st + (Codec.encRow st t).1.count Config.delim) % 2 = openFrames (Codec.encRow st t).2 := by
  have hopen := openFrames_add_count_openingBytes st
  have hself : openFrames st % 2 = openFrames st := by cases st <;> rfl
  rcases token_forms t with ⟨d, rfl⟩ | ⟨d, rfl⟩ | ⟨d, rfl⟩ | ⟨d, rfl⟩
  · simp only [encRow_data, List.count_append, count_delim_escBytes, Nat.add_zero, hopen]; rfl
  · simpa [encRow_rsvd1] using hself
  · simp only [encRow_eof, List.count_append, ← Nat.add_assoc, hopen]; simp [openFrames]
  · simpa [encRow_rsvd3] using hself

theorem encRun_delim_parity (st : TxState) (ts : List Token) :
    (openFrames st + (Codec.encRun st ts).1.count Config.delim) % 2 = openFrames (Codec.encRun st ts).2 := by
  induction ts generalizing st with
  | nil => cases st <;> rfl
  | cons t ts ih =>
    have hrow := encRow_delim_parity st t
    have hrest := ih (Codec.encRow st t).2
    simp only [Codec.encRun, List.count_append]
    omega

/-- Settles O55: what ENC has pushed is a run of R88 from `TX_IDLE`. -/
theorem encoderDelimiterParity : Obligations.EncoderDelimiterParity := by
  intro s h
  obtain ⟨hbytes, hstate⟩ := Prod.ext_iff.mp h
  have hparity := encRun_delim_parity .idle (txInOf (sinceReset s.env.log))
  rw [← hbytes, ← hstate, openFrames, Nat.zero_add] at hparity
  rw [hparity]
  cases s.txState <;> simp [openFrames]

/-! ### Crossing `RX_IDLE` (R35 (d)) -/

/-- The last happening of a turn that takes DEC out of `RX_IDLE` or into it is the transfer of `DELIM`, by its sender
or over the wire, unless the turn is a reset edge. -/
theorem Turn.idle_crossed {s t : State} (h : Turn s t) (hcross : s.rxState = .idle ↔ t.rxState ≠ .idle) :
    ∃ hs, t.env.log = s.env.log ++ hs ∧ (hs.getLast? = some (.rxIn Config.delim) ∨ hs = [.reset]) := by
  have hdelim (w : Byte) (hx : s.rxState = .idle ↔ (Codec.decRow s.rxState w).2 ≠ .idle) : w = Config.delim := by
    by_contra hw
    rw [Ne, decRow_idle_iff _ w hw] at hx
    exact iff_not_self hx
  cases h with
  | idle | txIn _ _ _ _ | ckIn _ _ _ | sample _ => exact absurd hcross iff_not_self
  | rxIn w more => exact ⟨[.rxIn w], rfl, .inl (by simp [hdelim w hcross])⟩
  | wire w ws hq =>
    refine ⟨[.txOut w, .rxIn w], by simp [hq], .inl ?_⟩
    simp [hdelim w (by simpa using hcross)]
  | txOut | rxOut => simp at hcross
  | reset => exact ⟨[.reset], rfl, .inr rfl⟩

/-- Settles O56, by the cases of a turn. -/
theorem idleCrossedOnlyByDelim : Obligations.IdleCrossedOnlyByDelim := by
  intro s t h hcross
  obtain ⟨rest, hturn⟩ := turn_of_step s t h
  exact hturn.idle_crossed hcross

/-! ### Reset, samples and transfers -/

/-- Settles O1: R12's constraints hold whatever the opaque parts of the depths are. -/
theorem resetStateValues : Obligations.ResetStateValues :=
  ⟨rfl, rfl, rfl, rfl, rfl, rfl, Nat.le_add_left 3 Config.txqExtra, Nat.le_add_left 1 Config.rxqExtra⟩

/-- A pin sample writes the record only (R29). -/
theorem step_sample (s : State) (rest : List Event) (p : Pin) (h : s.env.sched = .sample p :: rest) :
    step s = .next ((s.setSched rest).record (.sampled (s.pinValue p))) :=
  step_none s _ rest h rfl

/-- Settles O3, pin by pin. -/
theorem pinSamplesCopyRegisters : Obligations.PinSamplesCopyRegisters := by
  intro s rest p h
  rw [step_sample s rest p h]
  cases p <;> rfl

/-- Settles O51: a ready port transfers its datum. -/
theorem stepRunsDecodedInstruction : Obligations.StepRunsDecodedInstruction := by
  intro s rest
  refine ⟨fun t more hs ho hfree => ?_, fun w more hs ho hfree => ?_, fun t more hs ho => ?_,
    fun t ts i hs hq hd => ?_⟩
  · exact step_some s _ rest _ _ hs (fetch_txIn_ready (s.setSched rest) t more ho hfree)
  · exact step_some s _ rest _ _ hs (fetch_rxIn_ready (s.setSched rest) w more ho hfree)
  · exact step_some s _ rest _ _ hs (fetch_ckIn_offered (s.setSched rest) t more ho)
  · exact step_some s _ rest _ _ hs (fetch_rxOut_produced (s.setSched rest) t ts i hq hd)

/-- Settles O53: both queues are empty, and no transfers leave the reset values. -/
theorem resetMeetsInvariants : Obligations.ResetMeetsInvariants := by
  obtain ⟨-, htxQ, -, hrxQ, -, -, htxCap, hrxCap⟩ := resetStateValues
  refine ⟨⟨htxCap, hrxCap, ?_, ?_⟩, ?_, rfl, rfl, rfl⟩
  · simp [Queue.len, htxQ]
  · simp [Queue.len, hrxQ]
  · simp [State.TokensProduced, hrxQ]

end Sys2Proof.Machine
end

section
/-! ### The state of the three units follows the transfers (R50) -/

namespace Sys2Proof.Machine

/-! #### The record and the stream functions, one happening and one datum at a time -/

section Readings
variable (hs : List Happening)

@[simp] theorem readings_nil :
    txInOf [] = [] ∧ txOutOf [] = [] ∧ rxInOf [] = [] ∧ rxOutOf [] = [] ∧ ckInOf [] = [] :=
  ⟨rfl, rfl, rfl, rfl, rfl⟩

@[simp] theorem readings_txIn (t : Token) :
    txInOf (.txIn t :: hs) = t :: txInOf hs ∧ txOutOf (.txIn t :: hs) = txOutOf hs ∧
    rxInOf (.txIn t :: hs) = rxInOf hs ∧ rxOutOf (.txIn t :: hs) = rxOutOf hs ∧
    ckInOf (.txIn t :: hs) = ckInOf hs :=
  ⟨rfl, rfl, rfl, rfl, rfl⟩

@[simp] theorem readings_txOut (w : Byte) :
    txInOf (.txOut w :: hs) = txInOf hs ∧ txOutOf (.txOut w :: hs) = w :: txOutOf hs ∧
    rxInOf (.txOut w :: hs) = rxInOf hs ∧ rxOutOf (.txOut w :: hs) = rxOutOf hs ∧
    ckInOf (.txOut w :: hs) = ckInOf hs :=
  ⟨rfl, rfl, rfl, rfl, rfl⟩

@[simp] theorem readings_rxIn (w : Byte) :
    txInOf (.rxIn w :: hs) = txInOf hs ∧ txOutOf (.rxIn w :: hs) = txOutOf hs ∧
    rxInOf (.rxIn w :: hs) = w :: rxInOf hs ∧ rxOutOf (.rxIn w :: hs) = rxOutOf hs ∧
    ckInOf (.rxIn w :: hs) = ckInOf hs :=
  ⟨rfl, rfl, rfl, rfl, rfl⟩

@[simp] theorem readings_rxOut (t : Token) :
    txInOf (.rxOut t :: hs) = txInOf hs ∧ txOutOf (.rxOut t :: hs) = txOutOf hs ∧
    rxInOf (.rxOut t :: hs) = rxInOf hs ∧ rxOutOf (.rxOut t :: hs) = t :: rxOutOf hs ∧
    ckInOf (.rxOut t :: hs) = ckInOf hs :=
  ⟨rfl, rfl, rfl, rfl, rfl⟩

@[simp] theorem readings_ckIn (t : Token) :
    txInOf (.ckIn t :: hs) = txInOf hs ∧ txOutOf (.ckIn t :: hs) = txOutOf hs ∧
    rxInOf (.ckIn t :: hs) = rxInOf hs ∧ rxOutOf (.ckIn t :: hs) = rxOutOf hs ∧
    ckInOf (.ckIn t :: hs) = t :: ckInOf hs :=
  ⟨rfl, rfl, rfl, rfl, rfl⟩

@[simp] theorem readings_sampled (v : PinValue) :
    txInOf (.sampled v :: hs) = txInOf hs ∧ txOutOf (.sampled v :: hs) = txOutOf hs ∧
    rxInOf (.sampled v :: hs) = rxInOf hs ∧ rxOutOf (.sampled v :: hs) = rxOutOf hs ∧
    ckInOf (.sampled v :: hs) = ckInOf hs :=
  ⟨rfl, rfl, rfl, rfl, rfl⟩

end Readings

@[simp] theorem encRun_nil (st : TxState) : Codec.encRun st [] = ([], st) := rfl

@[simp] theorem encRun_singleton (st : TxState) (t : Token) : Codec.encRun st [t] = Codec.encRow st t := by
  simp [Codec.encRun]

@[simp] theorem decRun_nil (st : RxState) : Codec.decRun st [] = ([], st) := rfl

@[simp] theorem decRun_singleton (st : RxState) (w : Byte) :
    Codec.decRun st [w] = ((Codec.decRow st w).1.toList, (Codec.decRow st w).2) := by
  simp [Codec.decRun]

@[simp] theorem ckRun_nil (r : Byte × Byte) : Codec.ckRun r [] = r := rfl

@[simp] theorem ckRun_singleton (r : Byte × Byte) (t : Token) : Codec.ckRun r [t] = Codec.ckRow r t := rfl

/-! #### What happenings without a reset edge make of each unit, from any state -/

/-- ENC: the bytes delivered and those in `tx_q` at the end are those in `tx_q` at the start and those that the
accepted tokens push (R88), and `tx_state` is where the tokens lead. -/
def EncMoves (s : State) (hs : List Happening) (t : State) : Prop :=
  (txOutOf hs ++ t.txQ.items, t.txState) =
    (s.txQ.items ++ (Codec.encRun s.txState (txInOf hs)).1, (Codec.encRun s.txState (txInOf hs)).2)

/-- DEC: the tokens delivered and those in `rx_q` at the end are those in `rx_q` at the start and those that the
accepted bytes push (R113), and `rx_state` is where the bytes lead. -/
def DecMoves (s : State) (hs : List Happening) (t : State) : Prop :=
  (rxOutOf hs ++ t.rxQ.items, t.rxState) =
    (s.rxQ.items ++ (Codec.decRun s.rxState (rxInOf hs)).1, (Codec.decRun s.rxState (rxInOf hs)).2)

/-- CKS: the registers are what the accepted tokens make of them (R131 to R134). -/
def CksMoves (s : State) (hs : List Happening) (t : State) : Prop :=
  (t.ckAcc, t.ckSeed) = Codec.ckRun (s.ckAcc, s.ckSeed) (ckInOf hs)

/-- All three units move by what happened. -/
def UnitsMove (s : State) (hs : List Happening) (t : State) : Prop :=
  EncMoves s hs t ∧ DecMoves s hs t ∧ CksMoves s hs t

section Moves
variable {s t u : State} {hs hs' : List Happening}

/-- Conservation of a queue adds up: `out` is what was delivered, `mid` and `last` what the queue holds after, and
`pushed` what was pushed. -/
theorem delivered_append {α : Type} {first mid last out out' pushed pushed' : List α}
    (h : out ++ mid = first ++ pushed) (h' : out' ++ last = mid ++ pushed') :
    out ++ out' ++ last = first ++ (pushed ++ pushed') := by
  rw [List.append_assoc, h', ← List.append_assoc, h, List.append_assoc]

theorem EncMoves.trans (h : EncMoves s hs t) (h' : EncMoves t hs' u) : EncMoves s (hs ++ hs') u := by
  simp only [EncMoves, Prod.mk.injEq, txOutOf_append, txInOf_append, encRun_append] at *
  obtain ⟨hq, hst⟩ := h
  rw [hst] at h'
  exact ⟨delivered_append hq h'.1, h'.2⟩

theorem DecMoves.trans (h : DecMoves s hs t) (h' : DecMoves t hs' u) : DecMoves s (hs ++ hs') u := by
  simp only [DecMoves, Prod.mk.injEq, rxOutOf_append, rxInOf_append, decRun_append] at *
  obtain ⟨hq, hst⟩ := h
  rw [hst] at h'
  exact ⟨delivered_append hq h'.1, h'.2⟩

theorem CksMoves.trans (h : CksMoves s hs t) (h' : CksMoves t hs' u) : CksMoves s (hs ++ hs') u := by
  unfold CksMoves at *
  rw [h', h, ckInOf_append, ckRun_append]

/-- Moves add up. -/
theorem UnitsMove.trans (h : UnitsMove s hs t) (h' : UnitsMove t hs' u) : UnitsMove s (hs ++ hs') u := by
  obtain ⟨henc, hdec, hcks⟩ := h
  obtain ⟨henc', hdec', hcks'⟩ := h'
  exact ⟨henc.trans henc', hdec.trans hdec', hcks.trans hcks'⟩

end Moves

/-- To follow the transfers since reset is to have moved by them from the state after reset. -/
theorem follows_iff_unitsMove (s : State) : s.Follows ↔ UnitsMove .reset (sinceReset s.env.log) s := Iff.rfl

/-- A turn is a reset edge, or all three units move by what it adds to the record. -/
theorem Turn.reset_or_unitsMove {s t : State} (h : Turn s t) :
    t = s.resetEdge.record .reset ∨
      ∃ hs, t.env.log = s.env.log ++ hs ∧ Happening.reset ∉ hs ∧ UnitsMove s hs t := by
  simp only [UnitsMove, EncMoves, DecMoves, CksMoves]
  cases h with
  | idle => exact .inr ⟨[], by simp⟩
  | txIn u more => exact .inr ⟨[.txIn u], by simp⟩
  | rxIn w more => exact .inr ⟨[.rxIn w], by simp⟩
  | ckIn u more => exact .inr ⟨[.ckIn u], by simp⟩
  | wire w ws hq => exact .inr ⟨[.txOut w, .rxIn w], by simp [hq]⟩
  | txOut =>
    cases hq : s.txQ.items with
    | nil => exact .inr ⟨[], by simp [hq]⟩
    | cons w ws => exact .inr ⟨[.txOut w], by simp [hq]⟩
  | rxOut =>
    cases hq : s.rxQ.items with
    | nil => exact .inr ⟨[], by simp [hq]⟩
    | cons u us => exact .inr ⟨[.rxOut u], by simp [hq]⟩
  | sample p => exact .inr ⟨[.sampled (s.pinValue p)], by simp⟩
  | reset => exact .inl rfl

/-- After a reset edge nothing has been transferred since, and every item has its reset value (R170). -/
theorem State.resetEdge_follows (s : State) : (s.resetEdge.record .reset).Follows := by
  simp [State.Follows, State.EncFollows, State.DecFollows, State.CksFollows]

/-- A turn keeps the units what the transfers since reset make them: what it transfers is added to those, or it is
the reset edge that starts them anew. -/
theorem Turn.follows {s t : State} (h : Turn s t) (hs : s.Follows) : t.Follows := by
  rcases h.reset_or_unitsMove with rfl | ⟨hs', hlog, hnoReset, hmove⟩
  · exact s.resetEdge_follows
  · rw [follows_iff_unitsMove, hlog, sinceReset_append _ _ hnoReset]
    exact ((follows_iff_unitsMove s).mp hs).trans hmove

/-- Settles O52, by adding what the turn transfers to the transfers since reset. -/
theorem stepFollowsTransfers : Obligations.StepFollowsTransfers := by
  intro s t hs h
  obtain ⟨rest, hturn⟩ := turn_of_step s t h
  exact hturn.follows hs

end Sys2Proof.Machine
end

section
/-! ### Encodings: the decoder, the encoder and the opcode table agree (R60, R62, R67 to R69, R72) -/

namespace Sys2Proof

/-! #### The decoder over the two parts of a word (R60) -/

theorem exists_bytes (v : BitVec 16) : ∃ a w : Byte, v = a ++ w := ⟨_, _, word_eq_bytes v⟩

theorem exists_token (v : BitVec 16) : ∃ (a : BitVec 6) (t : Token), v = a ++ t := ⟨_, _, word_eq_token v⟩

section Words
variable (st : RxState) (a w : Byte) (c : BitVec 6) (t : Token)

theorem decode_w8 : decode .rxIn st .w8 (a ++ w : BitVec 16) =
    if a = 0#8 then if st = .esc then .reject .secondByteAlone else .instr (classify st w)
    else .reject .tooWide := by
  simp [decode, high_byte_append, low_byte_append]

theorem decode_w16 : decode .rxIn st .w16 (a ++ w : BitVec 16) =
    if a = Config.esc then if st = .esc then .instr (classify .esc w) else .reject .pairOutsideEscape
    else .reject .noPrefix := by
  simp [decode, high_byte_append, low_byte_append]

theorem decode_txIn : decode .txIn st .t10 (c ++ t : BitVec 16) =
    if c = 0#6 then .instr (decodeTxIn t) else .reject .tooWide := by
  simp [decode, above_token_append, token_append]

theorem decode_ckIn : decode .ckIn st .t10 (c ++ t : BitVec 16) =
    if c = 0#6 then .instr (decodeCkIn t) else .reject .tooWide := by
  simp [decode, above_token_append, token_append]

theorem decode_rxOut : decode .rxOut st .t10 (c ++ t : BitVec 16) =
    if c = 0#6 then decodeRxOut t else .reject .tooWide := by
  simp [decode, above_token_append, token_append]

end Words

/-- The words that are instructions, port by port: a byte, a byte after `ESC`, a token. -/
inductive Reads (st : RxState) : Port → Format → BitVec 16 → Instr → Prop
  | byte (w : Byte) (hst : st ≠ .esc) : Reads st .rxIn .w8 (0#8 ++ w : BitVec 16) (classify st w)
  | pair (w : Byte) (hst : st = .esc) : Reads st .rxIn .w16 (Config.esc ++ w : BitVec 16) (classify .esc w)
  | txIn (t : Token) : Reads st .txIn .t10 (0#6 ++ t : BitVec 16) (decodeTxIn t)
  | ckIn (t : Token) : Reads st .ckIn .t10 (0#6 ++ t : BitVec 16) (decodeCkIn t)
  | rxOut (t : Token) (i : Instr) (h : decodeRxOut t = .instr i) : Reads st .rxOut .t10 (0#6 ++ t : BitVec 16) i

theorem decode_of_reads {p : Port} {st : RxState} {f : Format} {v : BitVec 16} {i : Instr}
    (h : Reads st p f v i) : decode p st f v = .instr i := by
  cases h with
  | byte w hst => rw [decode_w8, if_pos rfl, if_neg hst]
  | pair w hst => rw [decode_w16, if_pos rfl, if_pos hst]
  | txIn t => rw [decode_txIn, if_pos rfl]
  | ckIn t => rw [decode_ckIn, if_pos rfl]
  | rxOut t _ hd => rw [decode_rxOut, if_pos rfl, hd]

theorem reads_of_decode {p : Port} {st : RxState} {f : Format} {v : BitVec 16} {i : Instr}
    (h : decode p st f v = .instr i) : Reads st p f v i := by
  cases p with
  | rxIn =>
    obtain ⟨a, w, rfl⟩ := exists_bytes v
    cases f with
    | w8 =>
      rw [decode_w8] at h
      split_ifs at h with ha hst
      subst ha; cases h; exact .byte w hst
    | w16 =>
      rw [decode_w16] at h
      split_ifs at h with ha hst
      subst ha; cases h; exact .pair w hst
    | t10 => cases h
  | txIn =>
    obtain ⟨c, t, rfl⟩ := exists_token v
    cases f with
    | t10 =>
      rw [decode_txIn] at h
      split_ifs at h with hc
      subst hc; cases h; exact .txIn t
    | w8 | w16 => cases h
  | ckIn =>
    obtain ⟨c, t, rfl⟩ := exists_token v
    cases f with
    | t10 =>
      rw [decode_ckIn] at h
      split_ifs at h with hc
      subst hc; cases h; exact .ckIn t
    | w8 | w16 => cases h
  | rxOut =>
    obtain ⟨c, t, rfl⟩ := exists_token v
    cases f with
    | t10 =>
      rw [decode_rxOut] at h
      split_ifs at h with hc
      subst hc; exact .rxOut t i h
    | w8 | w16 => cases h
  | txOut => cases f <;> cases h

/-! #### The encoding of a wire symbol and of a token row -/

section Symbols
variable (st : RxState) (w : Byte)

theorem rxStateOf_classify : rxStateOf (classify st w) = some st := by
  cases st <;> simp only [classify] <;> split_ifs <;> rfl

theorem wellFormed_classify : (classify st w).wellFormed = true := by
  cases st <;> simp only [classify] <;> split_ifs <;> simp [Instr.wellFormed, *]

theorem formatOf_classify : formatOf (classify st w) = if st = .esc then .w16 else .w8 := by
  cases st <;> simp only [classify, reduceCtorEq, if_true, if_false] <;> split_ifs <;> rfl

theorem encode_classify :
    encode (classify st w) = ((if st = .esc then Config.esc else 0#8) ++ w : BitVec 16) := by
  rw [encode, formatOf_classify, Machine.wireByte_classify]
  split_ifs <;> rfl

/-- Every well-formed symbol is the class of a byte in its row's state (R62). -/
theorem exists_classify (i : Instr) (hwf : i.wellFormed = true) (hst : rxStateOf i = some st) :
    ∃ w, classify st w = i := by
  cases i <;> cases hst
  case rxOpen | rxClose | rxTrunc | rxDropEnd => exact ⟨Config.delim, rfl⟩
  case rxEsc => exact ⟨Config.esc, rfl⟩
  case rxUnescDelim => exact ⟨Config.escDelim, rfl⟩
  case rxUnescEsc => exact ⟨Config.escEsc, rfl⟩
  case rxJunk w | rxLit w | rxBadEsc w | rxDropSkip w =>
    exact ⟨w, by simp_all [Instr.wellFormed, classify]⟩

end Symbols

/-- A row that has a token is encoded as the token, in any state and with any operand (R67 to R70). -/
theorem row_of_token? (i : Instr) (t : Token) (h : token? i = some t) :
    encode i = (0#6 ++ t : BitVec 16) ∧ formatOf i = .t10 ∧ i.wellFormed = true ∧ rxStateOf i = none := by
  cases i <;> cases h <;> exact ⟨rfl, rfl, rfl, rfl⟩

theorem rxStateOf_of_portOf_rxIn (i : Instr) (h : portOf i = .rxIn) : rxStateOf i ≠ none := by
  cases i <;> cases h <;> simp [rxStateOf]

theorem token?_decodeTxIn (t : Token) : token? (decodeTxIn t) = some t := by
  rcases Machine.token_forms t with ⟨d, rfl⟩ | ⟨d, rfl⟩ | ⟨d, rfl⟩ | ⟨d, rfl⟩
  · rw [decodeTxIn_data]; rfl
  · rw [decodeTxIn_rsvd1]; rfl
  · rw [decodeTxIn_eof]; rfl
  · rw [decodeTxIn_rsvd3]; rfl

theorem token?_decodeCkIn (t : Token) : token? (decodeCkIn t) = some t := by
  rcases Machine.token_forms t with ⟨d, rfl⟩ | ⟨d, rfl⟩ | ⟨d, rfl⟩ | ⟨d, rfl⟩
  · rw [decodeCkIn_data]; rfl
  · rw [decodeCkIn_init]; rfl
  · rw [decodeCkIn_zero]; rfl
  · rw [decodeCkIn_seed]; rfl

theorem token?_of_decodeRxOut (t : Token) (i : Instr) (h : decodeRxOut t = .instr i) : token? i = some t := by
  rcases decodeRxOut_eq_instr t i h with ⟨b, rfl, rfl⟩ | ⟨rfl, rfl⟩ | ⟨rfl, rfl⟩ | ⟨rfl, rfl⟩ <;> rfl

/-- Every row of `rx_out` is read from its token (R69). -/
theorem exists_decodeRxOut (i : Instr) (h : portOf i = .rxOut) : ∃ t, decodeRxOut t = .instr i := by
  cases i <;> cases h
  case data b => exact ⟨_, decodeRxOut_dataTok b⟩
  case eof => exact ⟨_, decodeRxOut_eofTok⟩
  case errTrunc => exact ⟨_, decodeRxOut_errTrunc⟩
  case errBadEsc => exact ⟨_, decodeRxOut_errBadEsc⟩

/-! #### The round trips -/

/-- An instruction is read from its encoding, on its own port and in its own format. -/
theorem reads_encode (i : Instr) (st : RxState) (hwf : i.wellFormed = true)
    (hst : rxStateOf i = none ∨ rxStateOf i = some st) : Reads st (portOf i) (formatOf i) (encode i) i := by
  cases hp : portOf i with
  | rxIn =>
    obtain ⟨w, rfl⟩ := exists_classify st i hwf (hst.resolve_left (rxStateOf_of_portOf_rxIn i hp))
    rw [formatOf_classify, encode_classify]
    by_cases hesc : st = .esc
    · subst hesc; exact .pair w rfl
    · rw [if_neg hesc, if_neg hesc]; exact .byte w hesc
  | txIn =>
    obtain ⟨t, rfl⟩ := Machine.exists_decodeTxIn i hp
    obtain ⟨he, hf, -, -⟩ := row_of_token? _ t (token?_decodeTxIn t)
    rw [hf, he]; exact .txIn t
  | ckIn =>
    obtain ⟨t, rfl⟩ := Machine.exists_decodeCkIn i hp
    obtain ⟨he, hf, -, -⟩ := row_of_token? _ t (token?_decodeCkIn t)
    rw [hf, he]; exact .ckIn t
  | rxOut =>
    obtain ⟨t, hd⟩ := exists_decodeRxOut i hp
    obtain ⟨he, hf, -, -⟩ := row_of_token? _ t (token?_of_decodeRxOut t i hd)
    rw [hf, he]; exact .rxOut t i hd
  | txOut => exact absurd hp (Machine.portOf_ne_txOut i)

/-- Settles O58: the encoding of a well-formed instruction is a word that the decoder reads. -/
theorem decodeOfEncodeIsInstruction : Obligations.DecodeOfEncodeIsInstruction :=
  fun i st hwf hst => decode_of_reads (reads_encode i st hwf hst)

/-- Settles O59, by the words that are instructions. -/
theorem encodeOfDecodeIsWord : Obligations.EncodeOfDecodeIsWord := by
  intro p st f v i h
  cases reads_of_decode h with
  | byte w hst =>
    exact ⟨by rw [encode_classify, if_neg hst], Machine.portOf_classify st w,
      by rw [formatOf_classify, if_neg hst], wellFormed_classify st w, .inr (rxStateOf_classify st w)⟩
  | pair w hst =>
    exact ⟨encode_classify .esc w, Machine.portOf_classify .esc w, formatOf_classify .esc w,
      wellFormed_classify .esc w, .inr (hst ▸ rxStateOf_classify .esc w)⟩
  | txIn t =>
    obtain ⟨he, hf, hwf, hany⟩ := row_of_token? _ t (token?_decodeTxIn t)
    exact ⟨he, Machine.portOf_decodeTxIn t, hf, hwf, .inl hany⟩
  | ckIn t =>
    obtain ⟨he, hf, hwf, hany⟩ := row_of_token? _ t (token?_decodeCkIn t)
    exact ⟨he, Machine.portOf_decodeCkIn t, hf, hwf, .inl hany⟩
  | rxOut t _ hd =>
    obtain ⟨he, hf, hwf, hany⟩ := row_of_token? i t (token?_of_decodeRxOut t i hd)
    exact ⟨he, Machine.portOf_of_decodeRxOut t i hd, hf, hwf, .inl hany⟩

end Sys2Proof
end

section
/-! ### The opcode table (R72) -/

namespace Sys2Proof

/-! #### An exact match stands before the "otherwise" row -/

/-- The rows of a port, a state of DEC and a format, in the table's order. -/
def rowsAt (p : Port) (st : RxState) (f : Format) : List Row := opcodeTable.filter (·.appliesTo p st f)

theorem rowsAt_sorted (p : Port) (st : RxState) (f : Format) :
    (rowsAt p st f).Pairwise fun r q => q.priority ≤ r.priority := by
  cases p <;> cases st <;> cases f <;> decide

/-- A row keeps its place before rows of no higher priority. -/
theorem foldl_higherPriority_some (best : Row) (rows : List Row) (h : ∀ r ∈ rows, r.priority ≤ best.priority) :
    rows.foldl higherPriority (some best) = some best := by
  induction rows with
  | nil => rfl
  | cons r rows ih =>
    obtain ⟨hr, hrows⟩ := List.forall_mem_cons.mp h
    rw [List.foldl_cons, higherPriority, if_neg (Nat.not_lt.mpr hr), ih hrows]

theorem filter_selects_rowsAt (p : Port) (st : RxState) (f : Format) (v : BitVec 16) :
    (opcodeTable.filter fun r => r.appliesTo p st f && r.selects v) = (rowsAt p st f).filter (·.selects v) := by
  rw [rowsAt, List.filter_comm, List.filter_filter]

/-- The row preferred is the first that the value selects. -/
theorem tableLookup_eq_find? (p : Port) (st : RxState) (f : Format) (v : BitVec 16) :
    tableLookup p st f v = (rowsAt p st f).find? (·.selects v) := by
  have hsorted := (rowsAt_sorted p st f).filter (·.selects v)
  rw [tableLookup, filter_selects_rowsAt, ← List.head?_filter]
  cases hrows : (rowsAt p st f).filter (·.selects v) with
  | nil => rfl
  | cons best rows =>
    rw [hrows, List.pairwise_cons] at hsorted
    exact foldl_higherPriority_some best rows hsorted.1

/-! #### The rows by the part of the word that they fix -/

theorem append_eq_append_iff {m n : Nat} (a b : BitVec m) (x y : BitVec n) : a ++ x = b ++ y ↔ a = b ∧ x = y := by
  refine ⟨fun h => ⟨?_, ?_⟩, fun ⟨ha, hx⟩ => by rw [ha, hx]⟩
  · simpa [BitVec.extractLsb'_append_eq_of_le] using congrArg (BitVec.extractLsb' n m) h
  · simpa [BitVec.extractLsb'_append_eq_of_add_le] using congrArg (BitVec.extractLsb' 0 n) h

/-- A value fits in its lower part exactly when its upper part is 0 (R60). -/
theorem toNat_append_lt_iff {m n : Nat} (a : BitVec m) (x : BitVec n) : (a ++ x).toNat < 2 ^ n ↔ a = 0#m := by
  rw [BitVec.toNat_append, ← Nat.shiftLeft_add_eq_or_of_lt x.isLt, Nat.shiftLeft_eq]
  refine ⟨fun h => BitVec.eq_of_toNat_eq ?_, fun h => by simp [h, x.isLt]⟩
  have : a.toNat * 2 ^ n < 1 * 2 ^ n := by omega
  simpa using Nat.lt_of_mul_lt_mul_right this

/-- Fixed bits match part by part. -/
theorem append_and_append_eq_iff {m n : Nat} (a b c : BitVec m) (x y z : BitVec n) :
    (a ++ x) &&& (b ++ y) = c ++ z ↔ a &&& b = c ∧ x &&& y = z := by
  rw [BitVec.and_append, append_eq_append_iff]

theorem Row.selects_eq (r : Row) (v : BitVec 16) :
    r.selects v = decide (v.toNat < 2 ^ r.format.width ∧ v &&& r.mask = r.bits) := by
  rw [Row.selects, Bool.decide_and, beq_eq_decide]

@[simp] theorem byte_and_mask (w : Byte) : w &&& 0xFF#8 = w := BitVec.and_allOnes
@[simp] theorem token_and_mask (t : Token) : t &&& 0x3FF#10 = t := BitVec.and_allOnes

/-- A row of one byte. -/
def byteRow (mnemonic : String) (st : RxState) (bits mask : Byte) (priority : Nat) : Row :=
  ⟨mnemonic, .w8, (0#8 ++ bits : BitVec 16), (0#8 ++ mask : BitVec 16), priority, some st, .rxIn⟩

/-- A row of a byte after `ESC`. -/
def pairRow (mnemonic : String) (bits mask : Byte) (priority : Nat) : Row :=
  ⟨mnemonic, .w16, (Config.esc ++ bits : BitVec 16), (0xFF#8 ++ mask : BitVec 16), priority, some .esc, .rxIn⟩

/-- A row of a token. -/
def tokenRow (mnemonic : String) (p : Port) (bits mask : Token) : Row :=
  ⟨mnemonic, .t10, (0#6 ++ bits : BitVec 16), (0#6 ++ mask : BitVec 16), 1, none, p⟩

section Rows
variable (m : String) (st : RxState) (p : Port) (n : Nat)

@[simp] theorem byteRow_mnemonic (b k : Byte) : (byteRow m st b k n).mnemonic = m := rfl
@[simp] theorem pairRow_mnemonic (b k : Byte) : (pairRow m b k n).mnemonic = m := rfl
@[simp] theorem tokenRow_mnemonic (b k : Token) : (tokenRow m p b k).mnemonic = m := rfl

@[simp] theorem byteRow_selects (bits mask a w : Byte) :
    (byteRow m st bits mask n).selects (a ++ w : BitVec 16) = decide (a = 0#8 ∧ w &&& mask = bits) := by
  rw [Row.selects_eq, decide_eq_decide]
  refine (Iff.and (toNat_append_lt_iff a w) (append_and_append_eq_iff a 0#8 0#8 w mask bits)).trans ?_
  simp

@[simp] theorem pairRow_selects (bits mask a w : Byte) :
    (pairRow m bits mask n).selects (a ++ w : BitVec 16) = decide (a = Config.esc ∧ w &&& mask = bits) := by
  rw [Row.selects_eq, decide_eq_decide]
  refine (Iff.and (iff_true_intro (a ++ w).isLt)
    (append_and_append_eq_iff a 0xFF#8 Config.esc w mask bits)).trans ?_
  simp

@[simp] theorem tokenRow_selects (bits mask : Token) (c : BitVec 6) (t : Token) :
    (tokenRow m p bits mask).selects (c ++ t : BitVec 16) = decide (c = 0#6 ∧ t &&& mask = bits) := by
  rw [Row.selects_eq, decide_eq_decide]
  refine (Iff.and (toNat_append_lt_iff c t) (append_and_append_eq_iff c 0#6 0#6 t mask bits)).trans ?_
  simp

end Rows


/-- The mask of a token's kind leaves the kind (R66). -/
@[simp] theorem token_and_kindMask (t : Token) : t &&& 0x300#10 = mkTok (tokKind t) 0#8 := by
  have hmask : (0x300#10 : Token) = mkTok 0b11#2 0#8 := by decide
  have hkind (k : BitVec 2) : k &&& 0b11#2 = k := BitVec.and_allOnes
  conv_lhs => rw [← mkTok_fields t, hmask, mkTok, mkTok, BitVec.and_append, hkind, BitVec.and_zero]
  rfl

@[simp] theorem mkTok_zero_inj (k l : BitVec 2) : mkTok k 0#8 = mkTok l 0#8 ↔ k = l := by
  exact (append_eq_append_iff k l 0#8 0#8).trans (and_iff_left rfl)

/-! #### The table's rows (R62, R67, R68, R69) -/

theorem rowsAt_idle : rowsAt .rxIn .idle .w8 =
    [byteRow "RX.OPEN" .idle Config.delim 0xFF#8 1, byteRow "RX.JUNK" .idle 0#8 0#8 0] := by decide

theorem rowsAt_frame : rowsAt .rxIn .frame .w8 =
    [byteRow "RX.CLOSE" .frame Config.delim 0xFF#8 1, byteRow "RX.ESC" .frame Config.esc 0xFF#8 1,
      byteRow "RX.LIT" .frame 0#8 0#8 0] := by decide

theorem rowsAt_esc : rowsAt .rxIn .esc .w16 =
    [pairRow "RX.UNESC_DELIM" Config.escDelim 0xFF#8 1, pairRow "RX.UNESC_ESC" Config.escEsc 0xFF#8 1,
      pairRow "RX.TRUNC" Config.delim 0xFF#8 1, pairRow "RX.BADESC" 0#8 0#8 0] := by decide

theorem rowsAt_esc_w8 : rowsAt .rxIn .esc .w8 = [] := rfl

theorem rowsAt_w16_of_ne (st : RxState) (h : st ≠ .esc) : rowsAt .rxIn st .w16 = [] := by
  cases st with
  | esc => exact absurd rfl h
  | idle | frame | drop => rfl

theorem rowsAt_drop : rowsAt .rxIn .drop .w8 =
    [byteRow "RX.DROP_END" .drop Config.delim 0xFF#8 1, byteRow "RX.DROP_SKIP" .drop 0#8 0#8 0] := by decide

theorem rowsAt_txIn (st : RxState) : rowsAt .txIn st .t10 =
    [tokenRow "TX.DATA" .txIn (mkTok 0b00#2 0#8) 0x300#10, tokenRow "TX.EOF" .txIn (mkTok 0b10#2 0#8) 0x300#10,
      tokenRow "TX.RSVD1" .txIn (mkTok 0b01#2 0#8) 0x300#10,
      tokenRow "TX.RSVD3" .txIn (mkTok 0b11#2 0#8) 0x300#10] := rfl

theorem rowsAt_ckIn (st : RxState) : rowsAt .ckIn st .t10 =
    [tokenRow "CK.DATA" .ckIn (mkTok 0b00#2 0#8) 0x300#10, tokenRow "CK.INIT" .ckIn (mkTok 0b01#2 0#8) 0x300#10,
      tokenRow "CK.ZERO" .ckIn (mkTok 0b10#2 0#8) 0x300#10,
      tokenRow "CK.SEED" .ckIn (mkTok 0b11#2 0#8) 0x300#10] := rfl

theorem rowsAt_rxOut (st : RxState) : rowsAt .rxOut st .t10 =
    [tokenRow "DATA" .rxOut (mkTok 0b00#2 0#8) 0x300#10, tokenRow "EOF" .rxOut 0x200#10 0x3FF#10,
      tokenRow "ERR_TRUNC" .rxOut 0x301#10 0x3FF#10, tokenRow "ERR_BADESC" .rxOut 0x302#10 0x3FF#10] := rfl

/-! #### The row selected is the row decoded -/

/-- The mnemonic of the row decoded, if any. -/
def Decoded.mnemonic? : Decoded → Option String
  | .instr i => some (mnemonicOf i)
  | .reject _ => none

@[simp] theorem Decoded.mnemonic?_instr (i : Instr) : (Decoded.instr i).mnemonic? = some (mnemonicOf i) := rfl
@[simp] theorem Decoded.mnemonic?_reject (r : Reject) : (Decoded.reject r).mnemonic? = none := rfl

/-- The mnemonic of the first row that a value selects, if any. -/
def firstMnemonic (rows : List Row) (v : BitVec 16) : Option String :=
  (rows.find? (·.selects v)).map Row.mnemonic

@[simp] theorem firstMnemonic_nil (v : BitVec 16) : firstMnemonic [] v = none := rfl

@[simp] theorem firstMnemonic_cons (r : Row) (rows : List Row) (v : BitVec 16) :
    firstMnemonic (r :: rows) v = if r.selects v then some r.mnemonic else firstMnemonic rows v := by
  cases h : r.selects v <;> simp [firstMnemonic, h]

/-- On a port, in a state and in a format, the first row that a value selects is the row decoded. -/
def RowsDecode (p : Port) (st : RxState) (f : Format) : Prop :=
  ∀ v, firstMnemonic (rowsAt p st f) v = (decode p st f v).mnemonic?

/-- One byte (R62). -/
theorem rowsDecode_w8 (st : RxState) : RowsDecode .rxIn st .w8 := by
  intro v
  obtain ⟨a, w, rfl⟩ := exists_bytes v
  rw [decode_w8]
  cases st with
  | idle => simp only [classify, reduceCtorEq, if_false]; split_ifs <;> simp [rowsAt_idle, *, mnemonicOf]
  | frame => simp only [classify, reduceCtorEq, if_false]; split_ifs <;> simp [rowsAt_frame, *, mnemonicOf]
  | esc => rw [rowsAt_esc_w8, if_pos rfl]; split_ifs <;> rfl
  | drop => simp only [classify, reduceCtorEq, if_false]; split_ifs <;> simp [rowsAt_drop, *, mnemonicOf]

/-- A byte after `ESC` (R62). -/
theorem rowsDecode_w16 (st : RxState) : RowsDecode .rxIn st .w16 := by
  intro v
  obtain ⟨a, w, rfl⟩ := exists_bytes v
  rw [decode_w16]
  by_cases hst : st = .esc
  · subst hst
    simp only [classify]; split_ifs <;> simp [rowsAt_esc, *, mnemonicOf]
  · rw [rowsAt_w16_of_ne st hst, if_neg hst]; split_ifs <;> rfl

/-- A token on `tx_in` (R67). -/
theorem rowsDecode_txIn (st : RxState) : RowsDecode .txIn st .t10 := by
  intro v
  obtain ⟨c, t, rfl⟩ := exists_token v
  rw [decode_txIn, rowsAt_txIn]
  by_cases hc : c = 0#6
  · rcases Machine.token_forms t with ⟨d, rfl⟩ | ⟨d, rfl⟩ | ⟨d, rfl⟩ | ⟨d, rfl⟩
    · simp [hc, decodeTxIn_data, mnemonicOf]
    · simp [hc, decodeTxIn_rsvd1, mnemonicOf]
    · simp [hc, decodeTxIn_eof, mnemonicOf]
    · simp [hc, decodeTxIn_rsvd3, mnemonicOf]
  · simp [hc]

/-- A token on `ck_in` (R68). -/
theorem rowsDecode_ckIn (st : RxState) : RowsDecode .ckIn st .t10 := by
  intro v
  obtain ⟨c, t, rfl⟩ := exists_token v
  rw [decode_ckIn, rowsAt_ckIn]
  by_cases hc : c = 0#6
  · rcases Machine.token_forms t with ⟨d, rfl⟩ | ⟨d, rfl⟩ | ⟨d, rfl⟩ | ⟨d, rfl⟩
    · simp [hc, decodeCkIn_data, mnemonicOf]
    · simp [hc, decodeCkIn_init, mnemonicOf]
    · simp [hc, decodeCkIn_zero, mnemonicOf]
    · simp [hc, decodeCkIn_seed, mnemonicOf]
  · simp [hc]

/-- A token on `rx_out` (R69). -/
theorem rowsDecode_rxOut (st : RxState) : RowsDecode .rxOut st .t10 := by
  intro v
  obtain ⟨c, t, rfl⟩ := exists_token v
  rw [decode_rxOut, rowsAt_rxOut]
  by_cases hc : c = 0#6
  · simp only [hc, decodeRxOut, firstMnemonic_cons, tokenRow_selects, token_and_kindMask, token_and_mask,
      mkTok_zero_inj, true_and, decide_eq_true_eq, if_true]
    split_ifs <;> rfl
  · simp [hc]

/-- Every port, state and format: the five that have rows, and those that have none. -/
theorem rowsDecode (p : Port) (st : RxState) (f : Format) : RowsDecode p st f := by
  cases p with
  | rxIn =>
    cases f with
    | w8 => exact rowsDecode_w8 st
    | w16 => exact rowsDecode_w16 st
    | t10 => cases st <;> exact fun _ => rfl
  | txIn =>
    cases f with
    | t10 => exact rowsDecode_txIn st
    | w8 | w16 => exact fun _ => rfl
  | ckIn =>
    cases f with
    | t10 => exact rowsDecode_ckIn st
    | w8 | w16 => exact fun _ => rfl
  | rxOut =>
    cases f with
    | t10 => exact rowsDecode_rxOut st
    | w8 | w16 => exact fun _ => rfl
  | txOut => cases f <;> exact fun _ => rfl

/-! #### Exact matches never overlap -/

/-- Two rows that one value selects agree on the bits that both fix. -/
theorem fixedBits_agree (r q : Row) (v : BitVec 16) (hr : r.selects v = true) (hq : q.selects v = true) :
    r.bits &&& q.mask = q.bits &&& r.mask := by
  simp only [Row.selects_eq, decide_eq_true_eq] at hr hq
  rw [← hr.2, ← hq.2, BitVec.and_assoc, BitVec.and_assoc, BitVec.and_comm r.mask]

/-- No two exact-match rows of one port, state and format agree on the bits that both fix. -/
theorem exactRows_differ : ∀ r ∈ opcodeTable, ∀ q ∈ opcodeTable, r.port = q.port → r.rxState = q.rxState →
    r.priority = 1 → q.priority = 1 → r.format = q.format → r.bits &&& q.mask = q.bits &&& r.mask → r = q := by
  decide

/-- Settles O60: the first row selected is the row decoded, and the rows' fixed bits tell exact matches apart. -/
theorem decoderFollowsOpcodeTable : Obligations.DecoderFollowsOpcodeTable := by
  refine ⟨fun p st f v => ?_, fun r hr q hq v hport hstate hprior hprior' hsel hsel' hformat =>
    exactRows_differ r hr q hq hport hstate hprior hprior' hformat (fixedBits_agree r q v hsel hsel')⟩
  have hrow : (tableLookup p st f v).map Row.mnemonic = (decode p st f v).mnemonic? := by
    rw [tableLookup_eq_find?]; exact rowsDecode p st f v
  refine ⟨fun i h => ?_, fun e h => ?_⟩
  · rw [h] at hrow
    exact Option.map_eq_some_iff.mp hrow
  · rw [h] at hrow
    exact Option.map_eq_none_iff.mp hrow

end Sys2Proof
end

section
/-! ### Classification and samples of the encoding -/

namespace Sys2Proof

/-- Settles O17: the exact bytes by evaluation, the "otherwise" rows by refusing each exact byte in turn. -/
theorem wireBytesClassified : Obligations.WireBytesClassified :=
  ⟨Config.framingBytes_distinct, rfl, fun _ h => if_neg h, rfl, rfl,
    fun _ hdelim hesc => (if_neg hdelim).trans (if_neg hesc), rfl, rfl, rfl,
    fun _ hescDelim hescEsc hdelim => (if_neg hescDelim).trans ((if_neg hescEsc).trans (if_neg hdelim)),
    rfl, fun _ h => if_neg h⟩

/-- Settles O57, by evaluating the decoder on each word. -/
theorem sampleWordsDecode : Obligations.SampleWordsDecode := by
  unfold Obligations.SampleWordsDecode; decide

end Sys2Proof

namespace Sys2Proof.Machine

/-- Settles O49: a ready port transfers its token, and `exec` of any token is its row of the tables. -/
theorem everyTokenAccepted : Obligations.EveryTokenAccepted := by
  intro t s rest more
  refine ⟨fun hs ho hfree => ?_, rfl, fun hs ho => ?_⟩
  · rw [step_some s _ rest _ _ hs (fetch_txIn_ready (s.setSched rest) t more ho hfree)]
    exact exec_decodeTxIn_ready t ((s.setSched rest).takeTxIn t more) hfree
  · rw [step_some s _ rest _ _ hs (fetch_ckIn_offered (s.setSched rest) t more ho)]
    exact exec_decodeCkIn t ((s.setSched rest).takeCkIn t more)

end Sys2Proof.Machine
end

section
/-! ### The encoder over one transfer (40_encoder.md R80 to R84, R88, R95) -/

namespace Sys2Proof.Machine

/-! #### `exec` of a token (R80 to R83, R88) -/

/-- Settles O9: a ready `tx_in` writes the token's row. -/
theorem encoderFollowsTable : Obligations.EncoderFollowsTable :=
  ⟨fun t s hfree => exec_decodeTxIn_ready t s hfree, State.popTx_txState⟩

/-- A token on a `tx_in` that is not ready is held, whatever it is (R80). -/
theorem exec_decodeTxIn_held (t : Token) (s : State) (h : s.txQ.free < 3) : exec (decodeTxIn t) s = .next s := by
  rw [exec_decodeTxIn, onTxIn_held _ _ h]

theorem openingBytes_eq_ite (st : TxState) : openingBytes st = if st = .idle then [0xC0#8] else [] := by
  cases st <;> rfl

/-- Settles O4, by the row of TX.DATA. -/
theorem txDataPushesEscapedByte : Obligations.TxDataPushesEscapedByte := by
  intro b s
  refine ⟨decodeTxIn_data b, fun hfree => ?_, fun hheld => ?_⟩
  · rw [← decodeTxIn_data b, exec_decodeTxIn_ready _ s hfree, State.acceptTx, encRow_data, openingBytes_eq_ite,
      List.append_assoc]
    rfl
  · rw [← decodeTxIn_data b, exec_decodeTxIn_held _ s hheld]

/-- Settles O5, by the row of TX.EOF. -/
theorem txEofClosesFrame : Obligations.TxEofClosesFrame := by
  intro d s
  refine ⟨decodeTxIn_eof d, fun hfree => ?_, fun hheld => ?_⟩
  · rw [← decodeTxIn_eof d, exec_decodeTxIn_ready _ s hfree, State.acceptTx, encRow_eof]
    cases s.txState <;> rfl
  · rw [← decodeTxIn_eof d, exec_decodeTxIn_held _ s hheld]

/-- A transfer that changes nothing is the same ready and held. -/
theorem onTxIn_self (s : State) : onTxIn s s = .next s := ite_self _

/-! #### A turn of `tx_in` and of `tx_out` -/

/-- A turn of `tx_in` while fewer than three bytes are free uses up the turn and nothing else (R31, R80). -/
theorem step_txIn_held (s : State) (rest : List Event) (hs : s.env.sched = .txIn :: rest) (hheld : s.txQ.free < 3) :
    step s = .next (s.setSched rest) :=
  step_none s _ rest hs (fetch_txIn_held (s.setSched rest) hheld)

/-- A turn of `tx_in` with a token offered and three bytes free transfers it (R31, R80). -/
theorem step_txIn_ready (s : State) (rest : List Event) (t : Token) (more : List Token)
    (hs : s.env.sched = .txIn :: rest) (ho : s.env.txIn = t :: more) (hfree : 3 ≤ s.txQ.free) :
    step s = .next (((s.setSched rest).takeTxIn t more).acceptTx t) :=
  (everyTokenAccepted t s rest more).1 hs ho hfree

/-- The row of a reserved token pushes nothing and keeps `tx_state` (R83). -/
theorem encRow_reserved (st : TxState) (k : BitVec 2) (d : Byte) (hk : k = 0b01#2 ∨ k = 0b11#2) :
    Codec.encRow st (mkTok k d) = ([], st) := by
  rcases hk with rfl | rfl
  · exact encRow_rsvd1 st d
  · exact encRow_rsvd3 st d

/-- Settles O6: the row of a reserved token is empty. -/
theorem reservedTokensHaveNoEffect : Obligations.ReservedTokensHaveNoEffect := by
  refine ⟨fun d s => ⟨decodeTxIn_rsvd1 d, onTxIn_self s, decodeTxIn_rsvd3 d, onTxIn_self s⟩, ?_⟩
  intro k d s rest more hk hs ho
  refine ⟨fun hfree => ?_, step_txIn_held s rest hs⟩
  rw [step_txIn_ready s rest _ more hs ho hfree, State.acceptTx_of_encRow_nil _ _ (encRow_reserved _ k d hk)]
  rfl

/-- Settles O7: readiness looks at `tx_q` only. -/
theorem txInHeldKeepsOffer : Obligations.TxInHeldKeepsOffer :=
  ⟨State.txInReady_iff, step_txIn_held⟩

/-- A turn of `tx_out` is TX.POP (R84). -/
theorem step_txOut (s : State) (rest : List Event) (hs : s.env.sched = .txOut :: rest) :
    step s = .next (s.setSched rest).popTx :=
  step_none s _ rest hs rfl

/-- Settles O8, by whether `tx_q` is empty. -/
theorem txPopDeliversOldestByte : Obligations.TxPopDeliversOldestByte := by
  intro s rest hs
  rw [step_txOut s rest hs]
  refine ⟨fun w ws hq => ?_, fun hq => ?_⟩
  · rw [(s.setSched rest).popTx_cons w ws hq]
    exact ⟨rfl, s.txOutValid_iff.mpr (by simp [Queue.len, hq]), by simp [hq]⟩
  · rw [(s.setSched rest).popTx_nil hq]
    exact ⟨rfl, by simp [State.txOutValid, Queue.len, hq]⟩

/-! #### What closes a frame (R95) -/

/-- The only row of R88 that leads out of `TX_FRAME` is that of TX.EOF. -/
theorem eof_of_encRow_frame_idle (t : Token) (h : (Codec.encRow .frame t).2 = .idle) : ∃ d, t = mkTok 0b10#2 d := by
  rcases token_forms t with ⟨d, rfl⟩ | ⟨d, rfl⟩ | ⟨d, rfl⟩ | ⟨d, rfl⟩
  · simp [encRow_data] at h
  · simp [encRow_rsvd1] at h
  · exact ⟨d, rfl⟩
  · simp [encRow_rsvd3] at h

/-- A turn that takes ENC from `TX_FRAME` to `TX_IDLE` is a reset edge or the transfer of a TX.EOF. -/
theorem Turn.frame_closed {s t : State} (h : Turn s t) (hopen : s.txState = .frame) (hclosed : t.txState = .idle) :
    t.env.log = s.env.log ++ [.reset] ∨ ∃ d : Byte, t.env.log = s.env.log ++ [.txIn (mkTok 0b10#2 d)] := by
  cases h with
  | idle | rxIn _ _ | ckIn _ _ | wire _ _ | txOut | rxOut | sample _ => simp [hopen] at hclosed
  | txIn u more =>
    obtain ⟨d, rfl⟩ := eof_of_encRow_frame_idle u (by simpa [hopen] using hclosed)
    exact .inr ⟨d, rfl⟩
  | reset => exact .inl rfl

/-- Settles O16, by the cases of a turn. -/
theorem frameClosedOnlyByEofOrReset : Obligations.FrameClosedOnlyByEofOrReset := by
  intro s t h hopen hclosed
  obtain ⟨rest, hturn⟩ := turn_of_step s t h
  exact hturn.frame_closed hopen hclosed

end Sys2Proof.Machine
end

section
/-! ### The encoder over a run (40_encoder.md R89, R92, R93) -/

namespace Sys2Proof.Machine

/-! #### A run without a reset edge moves the units by what happened in it -/

/-- A turn adds to the record, and what it adds, unless that is a reset edge, moves the units. -/
theorem Turn.unitsMove {s t : State} (h : Turn s t) :
    ∃ hs, t.env.log = s.env.log ++ hs ∧ (Happening.reset ∉ hs → UnitsMove s hs t) := by
  rcases h.reset_or_unitsMove with rfl | ⟨hs, hlog, -, hmove⟩
  · exact ⟨[.reset], rfl, fun hno => absurd (List.mem_singleton_self _) hno⟩
  · exact ⟨hs, hlog, fun _ => hmove⟩

/-- No happening moves no unit. -/
theorem UnitsMove.refl (s : State) : UnitsMove s [] s := by
  simp [UnitsMove, EncMoves, DecMoves, CksMoves]

/-- A run adds to the record, and what it adds, if no reset edge is among it, moves the units. -/
theorem exists_unitsMove_of_run (n : Nat) (s t : State) (h : Host.Core.run Sys2Proof.core n s = .next t) :
    ∃ hs, t.env.log = s.env.log ++ hs ∧ (Happening.reset ∉ hs → UnitsMove s hs t) := by
  induction n generalizing s with
  | zero => cases h; exact ⟨[], by simp, fun _ => .refl _⟩
  | succ n ih =>
    obtain ⟨u, hstep, hrun⟩ := run_succ_next n s t h
    obtain ⟨rest, hturn⟩ := turn_of_step s u hstep
    obtain ⟨hs, hlog, hmove⟩ := hturn.unitsMove
    obtain ⟨hs', hlog', hmove'⟩ := ih u hrun
    refine ⟨hs ++ hs', by simp [hlog', hlog], fun hno => ?_⟩
    obtain ⟨hno₁, hno₂⟩ := not_or.mp (List.mem_append.not.mp hno)
    exact UnitsMove.trans (hmove hno₁) (hmove' hno₂)

/-- A run without a reset edge moves the units by what it adds to the record (R50). -/
theorem unitsMove_of_run {n : Nat} {s t : State} {h : List Happening}
    (hrun : Host.Core.run Sys2Proof.core n s = .next t) (hlog : t.env.log = s.env.log ++ h)
    (hno : Happening.reset ∉ h) : UnitsMove s h t := by
  obtain ⟨hs, hlog', hmove⟩ := exists_unitsMove_of_run n s t hrun
  cases List.append_cancel_left (hlog.symm.trans hlog')
  exact hmove hno

/-- ENC's part of it: the bytes delivered and queued are those queued before and those pushed (R93). -/
theorem encMoves_of_run {n : Nat} {s t : State} {h : List Happening}
    (hrun : Host.Core.run Sys2Proof.core n s = .next t) (hlog : t.env.log = s.env.log ++ h)
    (hno : Happening.reset ∉ h) :
    txOutOf h ++ t.txQ.items = s.txQ.items ++ (Codec.encRun s.txState (txInOf h)).1 ∧
      t.txState = (Codec.encRun s.txState (txInOf h)).2 :=
  Prod.mk.inj (unitsMove_of_run hrun hlog hno).1

/-- Settles O10: what is delivered is what was queued and pushed, without what is still queued. -/
theorem encoderRunIsDepthIndependent : Obligations.EncoderRunIsDepthIndependent := by
  intro n s t h hrun hlog hno
  obtain ⟨hbytes, hstate⟩ := encMoves_of_run hrun hlog hno
  refine ⟨⟨hbytes, hstate⟩, ⟨t.txQ.items, hbytes⟩, fun hempty => ?_⟩
  rwa [hempty, List.append_nil] at hbytes

/-! #### What the tokens of a frame push -/

/-- Reserved tokens do not count (R83). -/
theorem encRun_filter (st : TxState) (ts : List Token) :
    Codec.encRun st (ts.filter fun u => tokKind u == 0b00#2 || tokKind u == 0b10#2) = Codec.encRun st ts := by
  induction ts generalizing st with
  | nil => rfl
  | cons t ts ih =>
    rcases token_forms t with ⟨d, rfl⟩ | ⟨d, rfl⟩ | ⟨d, rfl⟩ | ⟨d, rfl⟩
    · simp [Codec.encRun, ih]
    · simp [Codec.encRun, encRow_rsvd1, ih]
    · simp [Codec.encRun, ih]
    · simp [Codec.encRun, encRow_rsvd3, ih]

/-- The tokens of a payload and a TX.EOF push the opening delimiter if none is open, the body, and the closing
delimiter (R89). -/
theorem encRun_frame (st : TxState) (x : List Byte) (d : Byte) :
    Codec.encRun st (x.map (mkTok 0b00#2) ++ [mkTok 0b10#2 d]) =
      (openingBytes st ++ Codec.body x ++ [Config.delim], .idle) := by
  induction x generalizing st with
  | nil => simp [Codec.body, encRow_eof]
  | cons b x ih => simp [Codec.encRun, Codec.body, encRow_data, ih, openingBytes]

theorem encRun_idle_frame (x : List Byte) (d : Byte) :
    Codec.encRun .idle (x.map (mkTok 0b00#2) ++ [mkTok 0b10#2 d]) = (Codec.encode x, .idle) :=
  encRun_frame .idle x d

/-- Settles O11: without its reserved tokens the run is `FRAME x`. -/
theorem frameTokensPushEncode : Obligations.FrameTokensPushEncode := by
  intro n s t h x d hidle hrun hlog hno htokens
  obtain ⟨hbytes, hstate⟩ := encMoves_of_run hrun hlog hno
  rw [hidle, ← encRun_filter, htokens, encRun_idle_frame] at hbytes hstate
  exact ⟨hbytes, hstate⟩

/-- Settles O14: the first frame leads back to `TX_IDLE`, where the second begins. -/
theorem twoFramesPushBothEncodings : Obligations.TwoFramesPushBothEncodings := by
  intro n s t h x y d e hidle hrun hlog hno htokens
  obtain ⟨hbytes, hstate⟩ := encMoves_of_run hrun hlog hno
  rw [hidle, htokens, List.append_cons, encRun_append, encRun_idle_frame, encRun_idle_frame] at hbytes hstate
  exact ⟨by rw [hbytes, List.append_assoc], hstate⟩

end Sys2Proof.Machine
end

section
/-! ### The encoding of a payload (40_encoder.md R90, R91, R94) -/

namespace Sys2Proof.Machine

/-! #### Its bytes (R90) -/

/-- A body holds no `DELIM`. -/
theorem count_delim_body (x : List Byte) : (Codec.body x).count Config.delim = 0 := by
  induction x with
  | nil => rfl
  | cons b x ih => rw [Codec.body, List.count_append, count_delim_escBytes, ih]

/-- `esc(b)` is one of the two sequences, or `b` itself where `b` is not special. -/
theorem escBytes_forms (b : Byte) :
    (∃ e, (e = Config.escDelim ∨ e = Config.escEsc) ∧ escBytes b = [Config.esc, e]) ∨
      (b ≠ Config.esc ∧ escBytes b = [b]) := by
  unfold escBytes
  split_ifs with hdelim hesc
  · exact .inl ⟨_, .inl rfl, rfl⟩
  · exact .inl ⟨_, .inr rfl, rfl⟩
  · exact .inr ⟨hesc, rfl⟩

/-- An `ESC` in a body begins one of the two sequences: it is never the second byte of a pair, nor a byte that stands
for itself. -/
theorem body_esc_begins_pair (x : List Byte) (i : Nat) (h : (Codec.body x)[i]? = some Config.esc) :
    (Codec.body x)[i + 1]? = some Config.escDelim ∨ (Codec.body x)[i + 1]? = some Config.escEsc := by
  induction x generalizing i with
  | nil => simp [Codec.body] at h
  | cons b x ih =>
    rw [Codec.body] at h ⊢
    rcases escBytes_forms b with ⟨e, he, hpair⟩ | ⟨hesc, hself⟩
    · rw [hpair] at h ⊢
      match i with
      | 0 => simpa using he
      | 1 => rcases he with rfl | rfl <;> simp at h
      | j + 2 => exact ih j (by simpa using h)
    · rw [hself] at h ⊢
      match i with
      | 0 => exact absurd (by simpa using h) hesc
      | j + 1 => exact ih j (by simpa using h)

/-- Settles O12: the two delimiters of an encoding stand around its body. -/
theorem bodyIsTransparent : Obligations.BodyIsTransparent := by
  intro x
  have hcount := count_delim_body x
  exact ⟨List.count_eq_zero.mp hcount, body_esc_begins_pair x, by simp [Codec.encode, hcount], rfl,
    List.getLast?_concat⟩

/-! #### Its length (R91) -/

theorem escBytes_length (b : Byte) :
    (escBytes b).length = 1 + if b == Config.delim || b == Config.esc then 1 else 0 := by
  unfold escBytes
  split_ifs <;> simp_all

theorem body_length (x : List Byte) :
    (Codec.body x).length = x.length + x.countP (fun b => b == Config.delim || b == Config.esc) := by
  induction x with
  | nil => rfl
  | cons b x ih =>
    rw [Codec.body, List.length_append, escBytes_length, ih, List.countP_cons, List.length_cons]
    omega

theorem encode_length (x : List Byte) :
    (Codec.encode x).length = x.length + 2 + x.countP (fun b => b == Config.delim || b == Config.esc) := by
  simp only [Codec.encode, List.length_append, List.length_singleton, body_length]
  omega

/-- Settles O13: the count of special elements lies between none and all. -/
theorem encodingLength : Obligations.EncodingLength := by
  refine ⟨fun x => ?_, rfl⟩
  have hle : x.countP (fun b => b == Config.delim || b == Config.esc) ≤ x.length := List.countP_le_length
  rw [encode_length]
  refine ⟨rfl, by omega, by omega, fun hnone => ?_, fun hall => ?_⟩
  · rw [List.countP_eq_zero.mpr (by simpa using hnone), Nat.add_zero]
  · rw [List.countP_eq_length.mpr (by simpa using hall)]
    omega

/-! #### It determines the payload (R94) -/

/-- The first byte tells a pair from a byte that stands for itself, and a pair's second byte tells which pair. -/
theorem escBytes_append_inj (b c : Byte) (u v : List Byte) (h : escBytes b ++ u = escBytes c ++ v) :
    b = c ∧ u = v := by
  unfold escBytes at h
  split_ifs at h <;> simp_all

theorem escBytes_ne_nil (b : Byte) : escBytes b ≠ [] := by
  rcases escBytes_forms b with ⟨e, -, h⟩ | ⟨-, h⟩ <;> simp [h]

theorem body_injective : Function.Injective Codec.body := by
  intro x
  induction x with
  | nil =>
    intro y h
    cases y with
    | nil => rfl
    | cons c y => simp [Codec.body, escBytes_ne_nil] at h
  | cons b x ih =>
    intro y h
    cases y with
    | nil => simp [Codec.body, escBytes_ne_nil] at h
    | cons c y =>
      obtain ⟨rfl, hrest⟩ := escBytes_append_inj b c _ _ h
      rw [ih hrest]

theorem encode_injective : Function.Injective Codec.encode := fun _ _ h =>
  body_injective (List.append_cancel_left (List.append_cancel_right h))

/-- Settles O15: byte by byte, each escaped byte determines its element and what follows it. -/
theorem encodingIsInjective : Obligations.EncodingIsInjective :=
  fun _ _ => ⟨@body_injective _ _, @encode_injective _ _⟩

end Sys2Proof.Machine
end

section
/-! ### The decoder over one transfer (41_decoder.md R100 to R112) -/

namespace Sys2Proof.Machine

/-! #### `exec` of a wire symbol (R101 to R111) -/

section Rows
variable {i : Instr} {w : Byte} {s : State} {st v : RxState} {t : Token}

/-- A ready `rx_in` takes a symbol whose row pushes nothing: `rx_state` is the row's. -/
theorem exec_of_silent_row (hst : s.rxState = st) (hfree : 1 ≤ s.rxQ.free) (hc : classify st w = i)
    (hrow : Codec.decRow st w = (none, v)) : exec i s = .next (s.setRxState v) := by
  subst hst hc
  rw [exec_classify_ready w s hfree, s.acceptRx_of_none w v hrow]

/-- A ready `rx_in` takes a symbol whose row pushes nothing and keeps `rx_state`: nothing changes. -/
theorem exec_of_discarded_row (hst : s.rxState = st) (hfree : 1 ≤ s.rxQ.free) (hc : classify st w = i)
    (hrow : Codec.decRow st w = (none, st)) : exec i s = .next s := by
  rw [exec_of_silent_row hst hfree hc hrow, s.setRxState_same st hst]

/-- A ready `rx_in` takes a symbol whose row pushes a token: it is queued, and `rx_state` is the row's. -/
theorem exec_of_pushing_row (hst : s.rxState = st) (hfree : 1 ≤ s.rxQ.free) (hc : classify st w = i)
    (hrow : Codec.decRow st w = (some t, v)) : exec i s = .next ((s.pushRx t).setRxState v) := by
  subst hst hc
  rw [exec_classify_ready w s hfree, s.acceptRx_of_some w t v hrow]

end Rows

/-- A turn of `rx_in` while no token is free uses up the turn and nothing else (R31, R100). -/
theorem step_rxIn_held (s : State) (rest : List Event) (hs : s.env.sched = .rxIn :: rest) (hheld : s.rxQ.free = 0) :
    step s = .next (s.setSched rest) :=
  step_none s _ rest hs (fetch_rxIn_held (s.setSched rest) hheld)

/-- A byte whose row pushes nothing and keeps `rx_state` is taken from the sender, and that is all. -/
theorem step_rxIn_discarded (s : State) (rest : List Event) (w : Byte) (more : List Byte)
    (hs : s.env.sched = .rxIn :: rest) (ho : s.env.rxIn = w :: more) (hfree : 1 ≤ s.rxQ.free)
    (hrow : Codec.decRow s.rxState w = (none, s.rxState)) :
    step s = .next ((s.setSched rest).takeRxIn w more) := by
  rw [step_some s _ rest _ _ hs (fetch_rxIn_ready (s.setSched rest) w more ho hfree)]
  exact exec_of_discarded_row (s := (s.setSched rest).takeRxIn w more) rfl hfree rfl hrow

/-- Settles O18, by the two rows of `RX_IDLE`. -/
theorem idleSymbolResults : Obligations.IdleSymbolResults := by
  intro s hst
  refine ⟨fun hfree => ⟨⟨by rw [hst]; rfl, exec_of_silent_row (w := Config.delim) hst hfree rfl rfl⟩,
    fun w hw => ?_⟩, fun hheld => ⟨exec_rxIn_held _ s rfl hheld, fun w _ => exec_rxIn_held _ s rfl hheld⟩⟩
  have hjunk : classify .idle w = .rxJunk w := if_neg hw
  have hrow : Codec.decRow .idle w = (none, .idle) := if_neg hw
  exact ⟨hst ▸ hjunk, exec_of_discarded_row hst hfree hjunk hrow,
    fun rest more hs ho => step_rxIn_discarded s rest w more hs ho hfree (hst ▸ hrow)⟩

/-- Settles O21, by the two rows of `RX_DROP`. -/
theorem dropSymbolResults : Obligations.DropSymbolResults := by
  intro s hst
  refine ⟨fun hfree => ⟨⟨by rw [hst]; rfl, exec_of_silent_row (w := Config.delim) hst hfree rfl rfl⟩,
    fun w hw => ?_⟩, fun hheld => ⟨exec_rxIn_held _ s rfl hheld, fun w _ => exec_rxIn_held _ s rfl hheld⟩⟩
  have hskip : classify .drop w = .rxDropSkip w := if_neg hw
  have hrow : Codec.decRow .drop w = (none, .drop) := if_neg hw
  exact ⟨hst ▸ hskip, exec_of_discarded_row hst hfree hskip hrow,
    fun rest more hs ho => step_rxIn_discarded s rest w more hs ho hfree (hst ▸ hrow)⟩

/-- Settles O19, by the three rows of `RX_FRAME`. -/
theorem frameSymbolResults : Obligations.FrameSymbolResults := by
  intro s hst
  refine ⟨fun hfree => ⟨⟨by rw [hst]; rfl, exec_of_pushing_row (w := Config.delim) hst hfree rfl rfl⟩,
    ⟨by rw [hst]; rfl, exec_of_silent_row (w := Config.esc) hst hfree rfl rfl⟩, fun w hdelim hesc => ?_⟩,
    fun hheld => ⟨exec_rxIn_held _ s rfl hheld, exec_rxIn_held _ s rfl hheld,
      fun w _ _ => exec_rxIn_held _ s rfl hheld⟩⟩
  have hlit : classify .frame w = .rxLit w := (if_neg hdelim).trans (if_neg hesc)
  have hrow : Codec.decRow .frame w = (some (dataTok w), .frame) := (if_neg hdelim).trans (if_neg hesc)
  refine ⟨hst ▸ hlit, ?_⟩
  rw [exec_of_pushing_row hst hfree hlit hrow, (s.pushRx _).setRxState_same _ hst]
  rfl

/-- Settles O20, by the four rows of `RX_ESC`. -/
theorem escapeSymbolResults : Obligations.EscapeSymbolResults := by
  intro s hst
  refine ⟨fun hfree => ⟨⟨by rw [hst]; rfl, exec_of_pushing_row (w := Config.escDelim) hst hfree rfl rfl⟩,
    ⟨by rw [hst]; rfl, exec_of_pushing_row (w := Config.escEsc) hst hfree rfl rfl⟩,
    ⟨by rw [hst]; rfl, exec_of_pushing_row (w := Config.delim) hst hfree rfl rfl⟩,
    fun w hescDelim hescEsc hdelim => ?_⟩,
    fun hheld => ⟨exec_rxIn_held _ s rfl hheld, exec_rxIn_held _ s rfl hheld, exec_rxIn_held _ s rfl hheld,
      fun w _ _ _ => exec_rxIn_held _ s rfl hheld⟩⟩
  have hbad : classify .esc w = .rxBadEsc w := (if_neg hescDelim).trans ((if_neg hescEsc).trans (if_neg hdelim))
  have hrow : Codec.decRow .esc w = (some (errTok 0x02#8), .drop) :=
    (if_neg hescDelim).trans ((if_neg hescEsc).trans (if_neg hdelim))
  exact ⟨hst ▸ hbad, exec_of_pushing_row hst hfree hbad hrow⟩

/-- Settles O22: readiness looks at `rx_q` only. -/
theorem rxInHeldKeepsOffer : Obligations.RxInHeldKeepsOffer :=
  ⟨State.rxInReady_iff, exec_rxIn_held, step_rxIn_held⟩

/-! #### A turn of `rx_out` (R112) -/

/-- A turn of `rx_out` is RX.POP, whatever the head of `rx_q` is. -/
theorem step_rxOut (s : State) (rest : List Event) (hs : s.env.sched = .rxOut :: rest) :
    step s = .next (s.setSched rest).popRx := by
  cases hf : fetch .rxOut (s.setSched rest) with
  | none => exact step_none s _ rest hs hf
  | some r =>
    obtain ⟨i, s'⟩ := r
    obtain ⟨t, ts, -, hq, hd, rfl⟩ : ∃ t ts, Event.rxOut = .rxOut ∧ (s.setSched rest).rxQ.items = t :: ts ∧
        decodeRxOut t = .instr i ∧ s' = s.setSched rest := by
      simpa using fetch_cases _ _ _ _ hf
    rw [step_some s _ rest i _ hs hf, exec_of_rxOut i _ (portOf_of_decodeRxOut t i hd), onRxOut_cons i _ t ts hq hd]

/-- Settles O26, by whether `rx_q` is empty. -/
theorem rxPopDeliversOldestToken : Obligations.RxPopDeliversOldestToken := by
  intro s rest hs
  rw [step_rxOut s rest hs]
  refine ⟨fun t ts hq => ?_, fun hq => ?_⟩
  · rw [(s.setSched rest).popRx_cons t ts hq]
    exact ⟨rfl, fun hprod => hprod t (by simp [hq]), s.rxOutValid_iff.mpr (by simp [Queue.len, hq]), by simp [hq]⟩
  · rw [(s.setSched rest).popRx_nil hq]
    exact ⟨rfl, by simp [State.rxOutValid, Queue.len, hq]⟩

end Sys2Proof.Machine
end

section
/-! ### The decoder over a run (41_decoder.md R113, R115, R121) -/

namespace Sys2Proof.Machine

/-- Settles O24: a ready `rx_in` writes the byte's row. -/
theorem decoderFollowsTable : Obligations.DecoderFollowsTable :=
  ⟨fun w s hfree => exec_classify_ready w s hfree, State.popRx_rxState, decRow_idle_iff⟩

/-- DEC's part of a run without a reset edge: the tokens delivered and queued are those queued before and those
pushed (R121). -/
theorem decMoves_of_run {n : Nat} {s t : State} {h : List Happening}
    (hrun : Host.Core.run Sys2Proof.core n s = .next t) (hlog : t.env.log = s.env.log ++ h)
    (hno : Happening.reset ∉ h) :
    rxOutOf h ++ t.rxQ.items = s.rxQ.items ++ (Codec.decRun s.rxState (rxInOf h)).1 ∧
      t.rxState = (Codec.decRun s.rxState (rxInOf h)).2 :=
  Prod.mk.inj (unitsMove_of_run hrun hlog hno).2.1

/-- Settles O28: what is delivered is what was queued and pushed, without what is still queued. -/
theorem decoderRunIsDepthIndependent : Obligations.DecoderRunIsDepthIndependent := by
  intro n s t h hrun hlog hno
  obtain ⟨htokens, hstate⟩ := decMoves_of_run hrun hlog hno
  refine ⟨⟨htokens, hstate⟩, ⟨t.rxQ.items, htokens⟩, fun hempty => ?_⟩
  rwa [hempty, List.append_nil] at htokens

/-- `DELIM` crosses `RX_IDLE` in every state (R113). -/
theorem decRow_delim_idle_iff (st : RxState) : (Codec.decRow st Config.delim).2 = .idle ↔ st ≠ .idle := by
  cases st <;> simp [Codec.decRow]

/-- A byte sequence leads from `RX_IDLE` to `RX_IDLE`, or from outside it to outside it, only by an even number of
delimiters (R115). -/
theorem decRun_idle_iff (st : RxState) (ws : List Byte) :
    (Codec.decRun st ws).2 = .idle ↔ (ws.count Config.delim % 2 = 0 ↔ st = .idle) := by
  induction ws generalizing st with
  | nil => simp
  | cons w ws ih =>
    have hrest : (Codec.decRun st (w :: ws)).2 = (Codec.decRun (Codec.decRow st w).2 ws).2 := rfl
    by_cases hw : w = Config.delim
    · rw [hrest, ih, hw, decRow_delim_idle_iff, List.count_cons_self, Nat.succ_mod_two_eq_zero_iff,
        ← Nat.mod_two_ne_zero]
      tauto
    · rw [hrest, ih, decRow_idle_iff st w hw, List.count_cons_of_ne hw]

/-- Settles O29, from `RX_IDLE`. -/
theorem delimitersAlternate : Obligations.DelimitersAlternate :=
  ⟨fun ws => (decRun_idle_iff .idle ws).trans (iff_true_right rfl), rfl⟩

end Sys2Proof.Machine
end

section
/-! ### The decoder over encodings (41_decoder.md R118 to R120, R122) -/

namespace Sys2Proof.Machine

/-! #### What the pieces of a frame push -/

/-- The tokens and the state of a stream, from those of its beginning. -/
theorem decRun_append_of_eq {st u : RxState} {a : List Byte} {ts : List Token} (h : Codec.decRun st a = (ts, u))
    (b : List Byte) : Codec.decRun st (a ++ b) = (ts ++ (Codec.decRun u b).1, (Codec.decRun u b).2) := by
  rw [decRun_append, h]

/-- Outside frames, and in a frame already reported bad, bytes other than `DELIM` are discarded (R102, R111). -/
theorem decRun_discarded {st : RxState} (hst : st = .idle ∨ st = .drop) {ws : List Byte} (h : Config.delim ∉ ws) :
    Codec.decRun st ws = ([], st) := by
  induction ws with
  | nil => rfl
  | cons w ws ih =>
    obtain ⟨hw, hws⟩ := List.ne_and_not_mem_of_not_mem_cons h
    have hrow : Codec.decRow st w = (none, st) := by
      rcases hst with rfl | rfl <;> exact if_neg hw.symm
    simp [Codec.decRun, hrow, ih hws]

/-- An escaped byte pushes the byte (R105, R106, R107). -/
theorem decRun_escBytes (b : Byte) : Codec.decRun .frame (escBytes b) = ([dataTok b], .frame) := by
  unfold escBytes
  split_ifs with hdelim hesc
  · rw [hdelim]; rfl
  · rw [hesc]; rfl
  · simp [Codec.decRow, hdelim, hesc]

/-- A body pushes its payload. -/
theorem decRun_body (x : List Byte) : Codec.decRun .frame (Codec.body x) = (x.map dataTok, .frame) := by
  induction x with
  | nil => rfl
  | cons b x ih => rw [Codec.body, decRun_append_of_eq (decRun_escBytes b), ih]; rfl

/-- The opening delimiter and a body push the payload and leave the frame open. -/
theorem decRun_open_body (x : List Byte) :
    Codec.decRun .idle ([Config.delim] ++ Codec.body x) = (x.map dataTok, .frame) := by
  rw [decRun_append_of_eq (ts := []) (u := .frame) rfl, decRun_body]; rfl

/-- An encoding pushes its payload and EOF (R118). -/
theorem decRun_encode (x : List Byte) :
    Codec.decRun .idle (Codec.encode x) = (x.map dataTok ++ [eofTok], .idle) := by
  rw [Codec.encode, decRun_append_of_eq (decRun_open_body x)]; rfl

/-- Junk before an encoding pushes nothing (R119). -/
theorem decRun_junk_encode {j : List Byte} (h : Config.delim ∉ j) (x : List Byte) :
    Codec.decRun .idle (j ++ Codec.encode x) = (x.map dataTok ++ [eofTok], .idle) := by
  rw [decRun_append_of_eq (decRun_discarded (.inl rfl) h), decRun_encode]; rfl

/-- Settles O32: after each frame DEC is back in `RX_IDLE`. -/
theorem junkAndFramesPushPayloads : Obligations.JunkAndFramesPushPayloads := by
  intro j0 x j1 y h0 h1
  rw [List.append_assoc, decRun_append_of_eq (decRun_junk_encode h0 x), decRun_junk_encode h1 y, ← List.append_assoc]
  rfl

/-- Settles O33: both errors lead to `RX_IDLE`, at the delimiter or after dropping up to it. -/
theorem errorsLeaveNoTrace : Obligations.ErrorsLeaveNoTrace := by
  refine ⟨fun x ws => ?_, fun x dropped ws w hescDelim hescEsc hdelim hdropped => ?_⟩
  · have htrunc : Codec.decRun .frame [Config.esc, Config.delim] = ([errTok 0x01#8], .idle) := rfl
    rw [decRun_append_of_eq (decRun_append_of_eq (decRun_open_body x) _), htrunc]
    rfl
  · have hbad : Codec.decRun .frame [Config.esc, w] = ([errTok 0x02#8], .drop) := by
      simp [Codec.decRun, Codec.decRow, hescDelim, hescEsc, hdelim]
    have hdrop : Codec.decRun .drop (dropped ++ [Config.delim]) = ([], .idle) := by
      rw [decRun_append_of_eq (decRun_discarded (.inr rfl) hdropped)]; rfl
    have hframe := decRun_append_of_eq (decRun_append_of_eq (decRun_open_body x) [Config.esc, w])
      (dropped ++ [Config.delim])
    rw [hbad, hdrop, ← List.append_assoc] at hframe
    rw [decRun_append_of_eq hframe, List.append_nil]
    rfl

/-- Settles O34: the tokens of a good frame are those of its payload, whose length the encoding's gives. -/
theorem tokensPerFrame : Obligations.TokensPerFrame := by
  refine ⟨fun st w => by rw [decRun_singleton]; exact decRow_length_le st w, fun x => ?_⟩
  have hle : x.countP (fun b => b == Config.delim || b == Config.esc) ≤ x.length := List.countP_le_length
  simp only [decRun_encode, encode_length, List.length_append, List.length_map, List.length_singleton]
  exact ⟨rfl, by omega, by omega, by omega, by omega⟩

end Sys2Proof.Machine
end

section
/-! ### `decode` and DEC's token stream (41_decoder.md R114, R117, R118, R123) -/

namespace Sys2Proof.Machine

/-! #### Token streams -/

theorem dataTok_injective : Function.Injective dataTok := fun b c h => by
  simpa using congrArg tokData h

@[simp] theorem dataTok_inj {b c : Byte} : dataTok b = dataTok c ↔ b = c := dataTok_injective.eq_iff

@[simp] theorem isTerminator_dataTok (b : Byte) : Codec.isTerminator (dataTok b) = false := by
  simp [Codec.isTerminator]

@[simp] theorem isTerminator_eofTok : Codec.isTerminator eofTok = true := rfl

@[simp] theorem isTerminator_errTok (c : Byte) : Codec.isTerminator (errTok c) = true := by
  simp [Codec.isTerminator]

@[simp] theorem eofTok_ne_dataTok (b : Byte) : eofTok ≠ dataTok b := fun h => by
  simpa using congrArg tokKind h

@[simp] theorem errTok_ne_dataTok (c b : Byte) : errTok c ≠ dataTok b := fun h => by
  simpa using congrArg tokKind h

/-- A token that ends no record is a data token (R114). -/
theorem eq_dataTok_of_not_isTerminator (t : Token) (h : Codec.isTerminator t = false) : t = dataTok (tokData t) := by
  have hkind : tokKind t = 0b00#2 := by simpa [Codec.isTerminator] using h
  rw [dataTok, ← hkind, mkTok_fields]

/-- A token stream holds only data tokens, or there is a first terminator in it. -/
theorem tokens_forms (ts : List Token) :
    (∃ p : List Byte, ts = p.map dataTok) ∨
      ∃ (p : List Byte) (t : Token) (us : List Token), ts = p.map dataTok ++ t :: us ∧ Codec.isTerminator t = true := by
  induction ts with
  | nil => exact .inl ⟨[], rfl⟩
  | cons t ts ih =>
    cases ht : Codec.isTerminator t with
    | true => exact .inr ⟨[], t, ts, rfl, ht⟩
    | false =>
      have hdata := eq_dataTok_of_not_isTerminator t ht
      rcases ih with ⟨p, rfl⟩ | ⟨p, u, us, rfl, hu⟩
      · exact .inl ⟨tokData t :: p, by rw [List.map_cons, ← hdata]⟩
      · exact .inr ⟨tokData t :: p, u, us, by rw [List.map_cons, ← hdata, List.cons_append], hu⟩

section FirstByte
variable {st v : RxState} {w : Byte} {t : Token}

theorem decRun_cons_of_none (h : Codec.decRow st w = (none, v)) (s : List Byte) :
    Codec.decRun st (w :: s) = Codec.decRun v s := by
  simp [Codec.decRun, h]

theorem decRun_cons_of_some (h : Codec.decRow st w = (some t, v)) (s : List Byte) :
    Codec.decRun st (w :: s) = (t :: (Codec.decRun v s).1, (Codec.decRun v s).2) := by
  simp [Codec.decRun, h]

end FirstByte

/-- A stream of bytes splits at the byte that pushes a given one of its tokens. -/
theorem exists_pushing_byte {st v : RxState} {s : List Byte} {ts us : List Token} {t : Token}
    (h : Codec.decRun st s = (ts ++ t :: us, v)) :
    ∃ a w b u v', s = a ++ w :: b ∧ Codec.decRun st a = (ts, u) ∧ Codec.decRow u w = (some t, v') ∧
      Codec.decRun v' b = (us, v) := by
  induction s generalizing st ts with
  | nil => simp at h
  | cons w s ih =>
    rcases hrow : Codec.decRow st w with ⟨_ | t₁, v₁⟩
    · rw [decRun_cons_of_none hrow] at h
      obtain ⟨a, w', b, u, v', rfl, ha, hw', hb⟩ := ih h
      exact ⟨w :: a, w', b, u, v', rfl, by rw [decRun_cons_of_none hrow, ha], hw', hb⟩
    · rw [decRun_cons_of_some hrow] at h
      cases ts with
      | nil =>
        obtain ⟨⟨rfl, hus⟩, hv⟩ : (t₁ = t ∧ (Codec.decRun v₁ s).1 = us) ∧ (Codec.decRun v₁ s).2 = v := by simpa using h
        exact ⟨[], w, s, st, v₁, rfl, rfl, hrow, Prod.ext hus hv⟩
      | cons t₂ ts =>
        obtain ⟨⟨rfl, hts⟩, hv⟩ :
            (t₁ = t₂ ∧ (Codec.decRun v₁ s).1 = ts ++ t :: us) ∧ (Codec.decRun v₁ s).2 = v := by simpa using h
        obtain ⟨a, w', b, u, v', rfl, ha, hw', hb⟩ := ih (Prod.ext hts hv)
        exact ⟨w :: a, w', b, u, v', rfl, by rw [decRun_cons_of_some hrow, ha], hw', hb⟩

/-- The rows of R113 that push a terminator. -/
theorem terminator_rows {st v : RxState} {w : Byte} {t : Token} (h : Codec.decRow st w = (some t, v))
    (ht : Codec.isTerminator t = true) :
    (st = .frame ∧ w = Config.delim ∧ t = eofTok ∧ v = .idle) ∨
      (st = .esc ∧ w = Config.delim ∧ t = errTok 0x01#8 ∧ v = .idle) ∨
      (st = .esc ∧ t = errTok 0x02#8 ∧ v = .drop) := by
  cases st <;> simp only [Codec.decRow] at h
  case idle | drop => split_ifs at h <;> cases h
  case frame =>
    split_ifs at h with hdelim hesc <;> cases h
    · exact .inl ⟨rfl, hdelim, rfl, rfl⟩
    · simp at ht
  case esc =>
    split_ifs at h with hescDelim hescEsc hdelim <;> cases h
    · simp at ht
    · simp at ht
    · exact .inr (.inl ⟨rfl, hdelim, rfl, rfl⟩)
    · exact .inr (.inr ⟨rfl, rfl, rfl⟩)

/-! #### What bytes that push no terminator are -/

/-- What DEC has received from `RX_IDLE` when it is in `RX_FRAME`, `RX_ESC` or `RX_IDLE` and has pushed the payload
`p` and no terminator. -/
def Received (p s : List Byte) : RxState → Prop
  | .idle => p = [] ∧ Config.delim ∉ s
  | .frame => ∃ junk, Config.delim ∉ junk ∧ s = junk ++ [Config.delim] ++ Codec.body p
  | .esc => ∃ junk, Config.delim ∉ junk ∧ s = junk ++ [Config.delim] ++ Codec.body p ++ [Config.esc]
  | .drop => False

/-- A byte that pushes nothing is received. -/
theorem Received.silent {p s : List Byte} {u v : RxState} {w : Byte} (h : Received p s u)
    (hrow : Codec.decRow u w = (none, v)) : Received p (s ++ [w]) v := by
  cases u <;> simp only [Codec.decRow] at hrow
  case idle =>
    obtain ⟨rfl, hjunk⟩ := h
    split_ifs at hrow with hdelim <;> cases hrow
    · exact ⟨s, hjunk, by simp [hdelim, Codec.body]⟩
    · exact ⟨rfl, by simpa [hjunk] using Ne.symm hdelim⟩
  case frame =>
    obtain ⟨junk, hjunk, rfl⟩ := h
    split_ifs at hrow with hdelim hesc <;> cases hrow
    exact ⟨junk, hjunk, by rw [hesc]⟩
  case esc => split_ifs at hrow <;> cases hrow
  case drop => exact h.elim

/-- A byte that pushes a data token completes an escaped byte of the body. -/
theorem Received.data {p s : List Byte} {u v : RxState} {w b : Byte} (h : Received p s u)
    (hrow : Codec.decRow u w = (some (dataTok b), v)) : Received (p ++ [b]) (s ++ [w]) v := by
  have hbody : Codec.body (p ++ [b]) = Codec.body p ++ escBytes b := by simp [body_append, Codec.body]
  cases u <;> simp only [Codec.decRow] at hrow
  case idle => split_ifs at hrow <;> cases hrow
  case frame =>
    obtain ⟨junk, hjunk, rfl⟩ := h
    split_ifs at hrow with hdelim hesc <;>
      simp only [Prod.mk.injEq, Option.some.injEq, dataTok_inj, eofTok_ne_dataTok, reduceCtorEq, false_and] at hrow
    obtain ⟨rfl, rfl⟩ := hrow
    exact ⟨junk, hjunk, by simp [hbody, escBytes, hdelim, hesc]⟩
  case esc =>
    obtain ⟨junk, hjunk, rfl⟩ := h
    split_ifs at hrow with hescDelim hescEsc hdelim <;>
      simp only [Prod.mk.injEq, Option.some.injEq, dataTok_inj, errTok_ne_dataTok, false_and] at hrow
    · obtain ⟨rfl, rfl⟩ := hrow
      exact ⟨junk, hjunk, by simp [hbody, escBytes, hescDelim]⟩
    · obtain ⟨rfl, rfl⟩ := hrow
      exact ⟨junk, hjunk, by simp [hbody, escBytes, hescEsc]⟩
  case drop => exact h.elim

/-- Bytes that push only data tokens are junk, or junk, an opening delimiter and a body, with or without a last `ESC`
(R123). -/
theorem received_of_decRun {s p : List Byte} {u : RxState} (h : Codec.decRun .idle s = (p.map dataTok, u)) :
    Received p s u := by
  induction s using List.reverseRecOn generalizing p u with
  | nil =>
    obtain ⟨hp, rfl⟩ : p = [] ∧ RxState.idle = u := by simpa [eq_comm] using h
    exact ⟨hp, List.not_mem_nil⟩
  | append_singleton s w ih =>
    rcases hs : Codec.decRun .idle s with ⟨ts, u₀⟩
    rcases hrow : Codec.decRow u₀ w with ⟨o, v⟩
    obtain ⟨hts, rfl⟩ : ts ++ o.toList = p.map dataTok ∧ v = u := by
      simpa [decRun_append_of_eq hs, hrow] using h
    cases o with
    | none => exact (ih (hs.trans (by simpa using hts))).silent hrow
    | some t =>
      obtain ⟨p', q, rfl, rfl, hq⟩ := List.append_eq_map_iff.mp hts
      obtain ⟨b, rfl, rfl⟩ : ∃ b, q = [b] ∧ dataTok b = t := by simpa using hq
      exact (ih hs).data hrow

/-- Bytes that lead from `RX_IDLE` to it and push nothing hold no `DELIM`. -/
theorem delim_notMem_of_silent_idle {b : List Byte} (h : Codec.decRun .idle b = ([], .idle)) : Config.delim ∉ b :=
  (received_of_decRun (p := []) h).2

/-- Bytes that lead from `RX_DROP` to it and push nothing hold no `DELIM`. -/
theorem delim_notMem_of_silent_drop {b : List Byte} (h : Codec.decRun .drop b = ([], .drop)) : Config.delim ∉ b := by
  intro hmem
  obtain ⟨j, b', rfl, hj⟩ := List.eq_append_cons_of_mem hmem
  rw [decRun_append_of_eq (decRun_discarded (.inr rfl) hj)] at h
  exact received_of_decRun (p := []) (u := .drop) h

/-! #### `decode` at the first terminator (R117) -/

/-- Data tokens are collected. -/
theorem decodeFrom_append {st u : RxState} {a p : List Byte} (h : Codec.decRun st a = (p.map dataTok, u))
    (got b : List Byte) : Codec.decodeFrom st got (a ++ b) = Codec.decodeFrom u (got ++ p) b := by
  induction a generalizing st got p with
  | nil =>
    obtain ⟨hp, rfl⟩ : p = [] ∧ st = u := by simpa [eq_comm] using h
    simp [hp]
  | cons w a ih =>
    rcases hrow : Codec.decRow st w with ⟨_ | t, v⟩
    · rw [decRun_cons_of_none hrow] at h
      simpa [Codec.decodeFrom, hrow] using ih h got
    · rw [decRun_cons_of_some hrow] at h
      cases p with
      | nil => simp at h
      | cons c p =>
        obtain ⟨⟨rfl, hp⟩, hu⟩ :
            (t = dataTok c ∧ (Codec.decRun v a).1 = p.map dataTok) ∧ (Codec.decRun v a).2 = u := by simpa using h
        simpa [Codec.decodeFrom, hrow] using ih (Prod.ext hp hu) (got ++ [c])

/-- The input of `decode`, cut at the first byte that pushes a terminator, for each of its results. -/
inductive DecodeView (s : List Byte) : Codec.DecodeResult → Prop
  | incomplete (p : List Byte) (u : RxState) (h : Codec.decRun .idle s = (p.map dataTok, u)) :
      DecodeView s .incomplete
  | frame (a p rest : List Byte) (hs : s = a ++ Config.delim :: rest)
      (h : Codec.decRun .idle a = (p.map dataTok, .frame)) : DecodeView s (.frame p rest)
  | trunc (a p rest : List Byte) (hs : s = a ++ Config.delim :: rest)
      (h : Codec.decRun .idle a = (p.map dataTok, .esc)) : DecodeView s (.error 0x01#8 rest)
  | badEsc (a p post : List Byte) (w : Byte) (hs : s = a ++ w :: post)
      (h : Codec.decRun .idle a = (p.map dataTok, .esc))
      (hw : Codec.decRow .esc w = (some (errTok 0x02#8), .drop)) : DecodeView s (.error 0x02#8 (Codec.afterDelim post))

/-- Each cut determines the result. -/
theorem DecodeView.decode_eq {s : List Byte} {r : Codec.DecodeResult} (h : DecodeView s r) : Codec.decode s = r := by
  cases h with
  | incomplete p u h =>
    have hall := decodeFrom_append h [] []
    rwa [List.append_nil] at hall
  | frame a p rest hs h => rw [hs, Codec.decode, decodeFrom_append h]; rfl
  | trunc a p rest hs h => rw [hs, Codec.decode, decodeFrom_append h]; rfl
  | badEsc a p post w hs h hw =>
    rw [hs, Codec.decode, decodeFrom_append h]
    simp only [Codec.decodeFrom, hw]
    rfl

/-- Every input is cut in one of the four ways. -/
theorem exists_decodeView (s : List Byte) : ∃ r, DecodeView s r := by
  rcases hrun : Codec.decRun .idle s with ⟨ts, v⟩
  rcases tokens_forms ts with ⟨p, rfl⟩ | ⟨p, t, us, rfl, ht⟩
  · exact ⟨_, .incomplete p v hrun⟩
  · obtain ⟨a, w, b, u, v', rfl, ha, hw, -⟩ := exists_pushing_byte hrun
    rcases terminator_rows hw ht with ⟨rfl, rfl, rfl, rfl⟩ | ⟨rfl, rfl, rfl, rfl⟩ | ⟨rfl, rfl, rfl⟩
    · exact ⟨_, .frame a p b rfl ha⟩
    · exact ⟨_, .trunc a p b rfl ha⟩
    · exact ⟨_, .badEsc a p b w rfl ha hw⟩

theorem decode_eq_iff (s : List Byte) (r : Codec.DecodeResult) : Codec.decode s = r ↔ DecodeView s r := by
  refine ⟨fun h => ?_, DecodeView.decode_eq⟩
  obtain ⟨q, hq⟩ := exists_decodeView s
  rwa [← h, hq.decode_eq]

/-- Settles O30: what ENC delivers for the frame's tokens is the encoding that DEC then receives. -/
theorem decodeOfEncodeIsPayload : Obligations.DecodeOfEncodeIsPayload := by
  refine ⟨fun x => ⟨DecodeView.decode_eq (.frame _ x [] rfl (decRun_open_body x)), decRun_encode x⟩, ?_⟩
  intro n m s t u v h g x d hs hsq hrun hlog hno htokens htq hu huq hrun' hlog' hno' hwire
  obtain ⟨hbytes, -⟩ := encMoves_of_run hrun hlog hno
  obtain ⟨hout, hstate⟩ := decMoves_of_run hrun' hlog' hno'
  rw [hs, hsq, htq, htokens, encRun_idle_frame, List.append_nil, List.nil_append] at hbytes
  rw [hu, hwire, hbytes, decRun_encode] at hout hstate
  rw [huq, List.nil_append] at hout
  exact ⟨hout, hstate⟩

/-- Settles O35: a frame is cut at the closing delimiter of an encoding. -/
theorem decodeAcceptsOnlyEncodings : Obligations.DecodeAcceptsOnlyEncodings := by
  intro s p rest
  rw [decode_eq_iff]
  constructor
  · intro h
    cases h with
    | frame a _ _ hs h =>
      obtain ⟨junk, hjunk, rfl⟩ := received_of_decRun h
      exact ⟨junk, hjunk, by simp [hs, Codec.encode]⟩
  · rintro ⟨junk, hjunk, rfl⟩
    refine .frame (junk ++ ([Config.delim] ++ Codec.body p)) p rest (by simp [Codec.encode]) ?_
    rw [decRun_append_of_eq (decRun_discarded (.inl rfl) hjunk), decRun_open_body]
    rfl

/-- The beginning of an input up to a `DELIM` that pushes a terminator and leads to `RX_IDLE` ends with that byte. -/
theorem eq_nil_of_getLast?_of_silent_idle {a b : List Byte}
    (hlast : (a ++ Config.delim :: b).getLast? = some Config.delim) (hb : Codec.decRun .idle b = ([], .idle)) :
    b = [] := by
  by_contra hne
  have hmem : Config.delim ∈ b := by
    rw [List.append_cons, List.getLast?_append_of_ne_nil _ hne] at hlast
    exact List.mem_of_getLast? hlast
  exact delim_notMem_of_silent_idle hb hmem

/-- The next `DELIM` is looked for after bytes that hold none. -/
theorem afterDelim_append {b : List Byte} (hb : Config.delim ∉ b) (post : List Byte) :
    Codec.afterDelim (b ++ post) = Codec.afterDelim post := by
  induction b with
  | nil => rfl
  | cons w b ih =>
    obtain ⟨hw, hb⟩ := List.ne_and_not_mem_of_not_mem_cons hb
    simp [Codec.afterDelim, hw.symm, ih hb]

section Beginnings
variable {pre p : List Byte}

/-- A beginning, ending in `DELIM`, that pushes a payload and EOF is cut at its last byte. -/
theorem DecodeView.of_frame (hlast : pre.getLast? = some Config.delim)
    (h : Codec.decRun .idle pre = (p.map dataTok ++ [eofTok], .idle)) (rest : List Byte) :
    DecodeView (pre ++ rest) (.frame p rest) := by
  obtain ⟨a, w, b, u, v, rfl, ha, hw, hb⟩ := exists_pushing_byte h
  rcases terminator_rows hw rfl with ⟨rfl, rfl, -, rfl⟩ | ⟨-, -, ht, -⟩ | ⟨-, ht, -⟩
  · cases eq_nil_of_getLast?_of_silent_idle hlast hb
    exact .frame a p rest (by simp) ha
  · exact absurd ht (by decide)
  · exact absurd ht (by decide)

/-- A beginning, ending in `DELIM`, that pushes data tokens and ERR(01) is cut at its last byte. -/
theorem DecodeView.of_trunc (hlast : pre.getLast? = some Config.delim)
    (h : Codec.decRun .idle pre = (p.map dataTok ++ [errTok 0x01#8], .idle)) (rest : List Byte) :
    DecodeView (pre ++ rest) (.error 0x01#8 rest) := by
  obtain ⟨a, w, b, u, v, rfl, ha, hw, hb⟩ := exists_pushing_byte h
  rcases terminator_rows hw rfl with ⟨-, -, ht, -⟩ | ⟨rfl, rfl, -, rfl⟩ | ⟨-, ht, -⟩
  · exact absurd ht (by decide)
  · cases eq_nil_of_getLast?_of_silent_idle hlast hb
    exact .trunc a p rest (by simp) ha
  · exact absurd ht (by decide)

/-- A beginning that pushes data tokens and ERR(02) is cut at the bad byte: what it drops after it holds no `DELIM`. -/
theorem DecodeView.of_badEsc (h : Codec.decRun .idle pre = (p.map dataTok ++ [errTok 0x02#8], .drop))
    (post : List Byte) : DecodeView (pre ++ post) (.error 0x02#8 (Codec.afterDelim post)) := by
  obtain ⟨a, w, b, u, v, rfl, ha, hw, hb⟩ := exists_pushing_byte h
  rcases terminator_rows hw rfl with ⟨-, -, ht, -⟩ | ⟨-, -, ht, -⟩ | ⟨rfl, -, rfl⟩
  · exact absurd ht (by decide)
  · exact absurd ht (by decide)
  · rw [← afterDelim_append (delim_notMem_of_silent_drop hb) post]
    exact .badEsc a p (b ++ post) w (by simp) ha hw

end Beginnings

/-- Settles O36, by the cuts of `decode`. -/
theorem decodeReadsTokenStream : Obligations.DecodeReadsTokenStream := by
  intro s
  simp only [decode_eq_iff]
  refine ⟨⟨fun h => ?_, fun hall => ?_⟩, fun p rest => ⟨fun h => ?_, ?_⟩, fun c rest => ⟨fun h => ?_, ?_⟩⟩
  · cases h with
    | incomplete p u h => simp [h]
  · rcases hrun : Codec.decRun .idle s with ⟨ts, u⟩
    rcases tokens_forms ts with ⟨p, rfl⟩ | ⟨p, t, us, rfl, ht⟩
    · exact .incomplete p u hrun
    · have hkind := hall t (by simp [hrun])
      simp [Codec.isTerminator, hkind] at ht
  · cases h with
    | frame a _ _ hs h => exact ⟨a ++ [Config.delim], by simp [hs], List.getLast?_concat, decRun_append_of_eq h _⟩
  · rintro ⟨pre, rfl, hlast, hrun⟩
    exact .of_frame hlast hrun rest
  · cases h with
    | trunc a p _ hs h =>
      exact .inl ⟨rfl, a ++ [Config.delim], p, by simp [hs], List.getLast?_concat, decRun_append_of_eq h _⟩
    | badEsc a p post w hs h hw =>
      refine .inr ⟨rfl, a ++ [w], p, post, by simp [hs], rfl, ?_⟩
      rw [decRun_append_of_eq h, decRun_singleton, hw]
      rfl
  · rintro (⟨rfl, pre, p, rfl, hlast, hrun⟩ | ⟨rfl, pre, p, post, rfl, rfl, hrun⟩)
    · exact .of_trunc hlast hrun rest
    · exact .of_badEsc hrun post

/-! #### Frame records (R114) -/

theorem recordsFrom_data (got p : List Byte) (ts : List Token) :
    Codec.recordsFrom got (p.map dataTok ++ ts) = Codec.recordsFrom (got ++ p) ts := by
  induction p generalizing got with
  | nil => simp
  | cons b p ih => simp [Codec.recordsFrom, ih]

theorem records_good (p : List Byte) (ts : List Token) :
    Codec.records (p.map dataTok ++ eofTok :: ts) = (.good p :: (Codec.records ts).1, (Codec.records ts).2) := by
  rw [Codec.records, recordsFrom_data]
  simp [Codec.recordsFrom, Codec.records]

theorem records_bad (p : List Byte) (c : Byte) (ts : List Token) :
    Codec.records (p.map dataTok ++ errTok c :: ts) = (.bad c :: (Codec.records ts).1, (Codec.records ts).2) := by
  rw [Codec.records, recordsFrom_data]
  simp [Codec.recordsFrom, Codec.records]

/-- In `RX_DROP` nothing is pushed before the next `DELIM` (R110, R111). -/
theorem decRun_drop_tokens (ws : List Byte) :
    (Codec.decRun .drop ws).1 = (Codec.decRun .idle (Codec.afterDelim ws)).1 := by
  induction ws with
  | nil => rfl
  | cons w ws ih =>
    by_cases hw : w = Config.delim
    · simp [Codec.decRun, Codec.decRow, Codec.afterDelim, hw]
    · simp [Codec.decRun, Codec.decRow, Codec.afterDelim, hw, ih]

/-- Settles O37: the tokens up to the cut make the first record. -/
theorem recordsAreDecodeResults : Obligations.RecordsAreDecodeResults := by
  intro s
  simp only [decode_eq_iff]
  refine ⟨fun p rest h => ?_, fun c rest h => ?_, fun h => ?_⟩
  · cases h with
    | frame a _ _ hs h =>
      rw [hs, decRun_append_of_eq h]
      exact records_good p _
  · cases h with
    | trunc a p _ hs h =>
      rw [hs, decRun_append_of_eq h]
      exact records_bad p _ _
    | badEsc a p post w hs h hw =>
      rw [hs, decRun_append_of_eq h, ← decRun_drop_tokens]
      rw [decRun_cons_of_some hw]
      exact records_bad p _ _
  · cases h with
    | incomplete p u h =>
      have hdata := recordsFrom_data [] p []
      rw [List.append_nil] at hdata
      rw [h, Codec.records, hdata]
      rfl

end Sys2Proof.Machine
end

section
/-! ### The checksum of a payload (42_checksum.md R136 to R140, R144) -/

namespace Sys2Proof.Machine

/-! #### The fold over the payload (R137, R140) -/

@[simp] theorem ck_nil (s : Byte) : Codec.ck s [] = s := rfl

@[simp] theorem ck_cons (s b : Byte) (x : List Byte) : Codec.ck s (b :: x) = Codec.ck (s ^^^ b) x := rfl

theorem ck_eq_foldl (s : Byte) (x : List Byte) : Codec.ck s x = x.foldl (· ^^^ ·) s := by
  induction x generalizing s with
  | nil => rfl
  | cons b x ih => exact ih (s ^^^ b)

/-- The incremental law (R140). -/
theorem ck_append (s : Byte) (x y : List Byte) : Codec.ck s (x ++ y) = Codec.ck (Codec.ck s x) y := by
  simp only [ck_eq_foldl, List.foldl_append]

/-! #### The order of the bytes and the seed (R138) -/

/-- A permutation of the payload has the same checksum, since XOR is commutative and associative. -/
theorem ck_perm (s : Byte) {x y : List Byte} (h : x.Perm y) : Codec.ck s x = Codec.ck s y := by
  simp only [ck_eq_foldl]
  exact h.foldl_op_eq

/-- A byte XORed into the seed is XORed into the checksum. -/
theorem ck_xor (s b : Byte) (x : List Byte) : Codec.ck (b ^^^ s) x = b ^^^ Codec.ck s x := by
  induction x generalizing s with
  | nil => rfl
  | cons c x ih => rw [ck_cons, ck_cons, BitVec.xor_assoc, ih]

theorem ck_eq_xor_ck_zero (s : Byte) (x : List Byte) : Codec.ck s x = s ^^^ Codec.ck 0x00#8 x := by
  rw [← ck_xor, BitVec.xor_zero]

/-- Different seeds give one payload different checksums. -/
theorem ck_seed_injective (x : List Byte) : Function.Injective fun s => Codec.ck s x := fun s t h => by
  simp only [ck_eq_xor_ck_zero s, ck_eq_xor_ck_zero t] at h
  exact (BitVec.xor_left_inj _).mp h

/-- Settles O42, by the commutativity and associativity of XOR. -/
theorem checksumIsOrderIndependent : Obligations.ChecksumIsOrderIndependent :=
  ⟨fun s _ _ h => ck_perm s h, ck_eq_xor_ck_zero⟩

/-! #### Bytes that cancel (R139) -/

theorem ck_equal_pair (s b : Byte) (x : List Byte) : Codec.ck s (b :: b :: x) = Codec.ck s x := by
  rw [ck_cons, ck_cons, xor_cancel_right]

/-- A payload with an even number of each byte begins with a byte that stands in it once more; without the two it has
an even number of each byte still. -/
theorem exists_perm_pair (b : Byte) (x : List Byte) (h : ∀ c, (b :: x).count c % 2 = 0) :
    ∃ y, (b :: x).Perm (b :: b :: y) ∧ ∀ c, y.count c % 2 = 0 := by
  have hb := h b
  rw [List.count_cons_self] at hb
  have hmem : b ∈ x := List.count_pos_iff.mp (by omega)
  have hperm : (b :: x).Perm (b :: b :: x.erase b) := (List.perm_cons_erase hmem).cons b
  refine ⟨x.erase b, hperm, fun c => ?_⟩
  have hc := h c
  rw [hperm.count_eq, List.count_cons, List.count_cons] at hc
  split at hc <;> omega

/-- Bytes that occur an even number of times cancel. -/
theorem ck_of_even_counts (s : Byte) (x : List Byte) (h : ∀ b, x.count b % 2 = 0) : Codec.ck s x = s := by
  induction hn : x.length using Nat.strong_induction_on generalizing x with
  | _ n ih =>
    cases x with
    | nil => rfl
    | cons b x =>
      obtain ⟨y, hperm, hy⟩ := exists_perm_pair b x h
      have hshorter : y.length < n := by
        have hlength := hperm.length_eq
        simp only [List.length_cons] at hlength hn
        omega
      rw [ck_perm s hperm, ck_equal_pair, ih y.length hshorter y hy rfl]

/-- Four consecutive bytes of which the first is a multiple of 4 cancel. -/
theorem ck_four_consecutive (s b : Byte) : Codec.ck s [4 * b, 4 * b + 1, 4 * b + 2, 4 * b + 3] = s := by
  have hzero : ∀ b : Byte, Codec.ck 0x00#8 [4 * b, 4 * b + 1, 4 * b + 2, 4 * b + 3] = 0x00#8 := by decide
  rw [ck_eq_xor_ck_zero, hzero, BitVec.xor_zero]

/-- So do the bytes counted up from 0 to any multiple of 4. -/
theorem ck_range_four_mul (s : Byte) (n : Nat) : Codec.ck s ((List.range (4 * n)).map (BitVec.ofNat 8)) = s := by
  induction n with
  | zero => rfl
  | succ n ih =>
    have hfour : ((List.range 4).map (4 * n + ·)).map (BitVec.ofNat 8) =
        [4 * BitVec.ofNat 8 n, 4 * BitVec.ofNat 8 n + 1, 4 * BitVec.ofNat 8 n + 2, 4 * BitVec.ofNat 8 n + 3] := by
      simp [List.range_succ, BitVec.ofNat_add, BitVec.ofNat_mul]
    rw [Nat.mul_succ, List.range_add, List.map_append, ck_append, ih, hfour, ck_four_consecutive]

/-- CK.DATA twice with one byte gives back the state. -/
theorem exec_ckData_involutive (b : Byte) (s t : State) (h : exec (.ckData b) s = .next t) :
    exec (.ckData b) t = .next s := by
  cases h
  show Host.Outcome.next { s with ckAcc := s.ckAcc ^^^ b ^^^ b } = .next s
  rw [xor_cancel_right]

/-- Settles O43: equal bytes cancel in pairs, and four consecutive ones from a multiple of 4 cancel. -/
theorem checksumBytesCancel : Obligations.ChecksumBytesCancel :=
  ⟨exec_ckData_involutive, ck_of_even_counts, fun s => ck_range_four_mul s 64⟩

/-! #### What the checksum detects (R144) -/

/-- Two bytes of a payload can be brought to its front. -/
theorem perm_two_to_front (a b : Byte) (p q r : List Byte) :
    (p ++ a :: q ++ b :: r).Perm (a :: b :: (p ++ q ++ r)) := by
  have hb : (p ++ a :: q ++ b :: r).Perm (b :: (p ++ a :: q ++ r)) := List.perm_middle
  have ha : (p ++ a :: q ++ r).Perm (a :: (p ++ q ++ r)) := List.perm_middle.append_right r
  exact hb.trans ((ha.cons b).trans (.swap a b _))

/-- A change of one byte changes the checksum. -/
theorem byte_eq_of_ck_eq (s a b : Byte) (p q : List Byte)
    (h : Codec.ck s (p ++ a :: q) = Codec.ck s (p ++ b :: q)) : a = b := by
  rw [ck_append, ck_append, ck_cons, ck_cons] at h
  exact (BitVec.xor_right_inj _).mp (ck_seed_injective q h)

/-- One change applied to two bytes does not change the checksum. -/
theorem ck_change_twice (s a b d : Byte) (p q r : List Byte) :
    Codec.ck s (p ++ (a ^^^ d) :: q ++ (b ^^^ d) :: r) = Codec.ck s (p ++ a :: q ++ b :: r) := by
  have hseed : s ^^^ (a ^^^ d) ^^^ (b ^^^ d) = s ^^^ a ^^^ b := by
    calc s ^^^ (a ^^^ d) ^^^ (b ^^^ d)
      _ = s ^^^ a ^^^ b ^^^ d ^^^ d := by ac_rfl
      _ = s ^^^ a ^^^ b := xor_cancel_right _ d
  calc Codec.ck s (p ++ (a ^^^ d) :: q ++ (b ^^^ d) :: r)
    _ = Codec.ck (s ^^^ (a ^^^ d) ^^^ (b ^^^ d)) (p ++ q ++ r) := ck_perm s (perm_two_to_front _ _ p q r)
    _ = Codec.ck (s ^^^ a ^^^ b) (p ++ q ++ r) := by rw [hseed]
    _ = Codec.ck s (p ++ a :: q ++ b :: r) := (ck_perm s (perm_two_to_front a b p q r)).symm

theorem ck_remove_equal_pair (s a : Byte) (p q r : List Byte) :
    Codec.ck s (p ++ a :: q ++ a :: r) = Codec.ck s (p ++ q ++ r) := by
  rw [ck_perm s (perm_two_to_front a a p q r), ck_equal_pair]

theorem ck_remove_zero (s : Byte) (p q : List Byte) : Codec.ck s (p ++ 0x00#8 :: q) = Codec.ck s (p ++ q) := by
  rw [ck_append, ck_cons, BitVec.xor_zero, ← ck_append]

/-- Settles O45: a change in one byte is a change of the seed of what follows it, and two bytes can be put together. -/
theorem checksumDetection : Obligations.ChecksumDetection :=
  ⟨byte_eq_of_ck_eq, fun s _ _ h => ck_perm s h, ck_change_twice, ck_remove_equal_pair, ck_remove_zero⟩

end Sys2Proof.Machine
end

section
/-! ### CKS over one transfer and over a run (42_checksum.md R131 to R135, R137, R140 to R142) -/

namespace Sys2Proof.Machine

/-! #### `exec` of a token and a sample of its pins (R131 to R135) -/

/-- Settles O39: each token's meaning writes one register. -/
theorem checksumTokenResults : Obligations.ChecksumTokenResults := fun b _ =>
  ⟨⟨decodeCkIn_data b, rfl⟩, ⟨decodeCkIn_init b, rfl⟩, ⟨decodeCkIn_zero b, rfl⟩, ⟨decodeCkIn_seed b, rfl⟩⟩

/-! #### What token sequences make of the registers -/

/-- CKS's part of a run without a reset edge: the registers are what the accepted tokens make of them (R50). -/
theorem cksMoves_of_run {n : Nat} {s t : State} {h : List Happening}
    (hrun : Host.Core.run Sys2Proof.core n s = .next t) (hlog : t.env.log = s.env.log ++ h)
    (hno : Happening.reset ∉ h) : CksMoves s h t :=
  (unitsMove_of_run hrun hlog hno).2.2

theorem ckRun_cons (r : Byte × Byte) (t : Token) (ts : List Token) :
    Codec.ckRun r (t :: ts) = Codec.ckRun (Codec.ckRow r t) ts := rfl

/-- The tokens of a payload accumulate its checksum from whatever the accumulator holds (R131). -/
theorem ckRun_data (r : Byte × Byte) (x : List Byte) :
    Codec.ckRun r (x.map (mkTok 0b00#2)) = (Codec.ck r.1 x, r.2) := by
  induction x generalizing r with
  | nil => rfl
  | cons b x ih => rw [List.map_cons, ckRun_cons, ckRow_data, ih, ck_cons]

/-- `CKSUM x`, whatever the data field of its CK.INIT: the accumulator is the checksum of `x` from the seed (R137). -/
theorem ckRun_init_data (r : Byte × Byte) (d : Byte) (x : List Byte) :
    Codec.ckRun r (mkTok 0b01#2 d :: x.map (mkTok 0b00#2)) = (Codec.ck r.2 x, r.2) := by
  rw [ckRun_cons, ckRow_init, ckRun_data]

/-- A cleared accumulator stays clear under CK.ZERO and CK.SEED (R142). -/
theorem ckRun_zero_of_control (seed : Byte) (ts : List Token)
    (h : ∀ u ∈ ts, tokKind u = 0b10#2 ∨ tokKind u = 0b11#2) : (Codec.ckRun (0x00#8, seed) ts).1 = 0x00#8 := by
  induction ts generalizing seed with
  | nil => rfl
  | cons t ts ih =>
    obtain ⟨ht, hts⟩ := List.forall_mem_cons.mp h
    rw [ckRun_cons, ← mkTok_fields t]
    rcases ht with hk | hk <;> rw [hk]
    · rw [ckRow_zero]; exact ih _ hts
    · rw [ckRow_seed]; exact ih _ hts

/-! #### Runs -/

/-- Settles O40: a sample writes the record only, and only the tokens after the CK.ZERO matter. -/
theorem checksumReadReturnsAccumulator : Obligations.ChecksumReadReturnsAccumulator := by
  refine ⟨fun s rest => ⟨step_sample s rest .ckOut, step_sample s rest .ckSeedO⟩, ?_⟩
  intro n s t h before after d hrun hlog hno htokens hafter
  have hmove := cksMoves_of_run hrun hlog hno
  rw [CksMoves, htokens, ckRun_append, ckRun_cons, ckRow_zero] at hmove
  exact (congrArg Prod.fst hmove).trans (ckRun_zero_of_control _ after hafter)

/-- Settles O41: the run's tokens are `CKSUM x`. -/
theorem checksumOfPayload : Obligations.ChecksumOfPayload := by
  refine ⟨fun n s t h x d hrun hlog hno htokens => ?_, rfl⟩
  have hmove := cksMoves_of_run hrun hlog hno
  rw [CksMoves, htokens, ckRun_init_data] at hmove
  obtain ⟨hacc, hseed⟩ := Prod.mk.inj hmove
  exact ⟨hacc.trans (ck_eq_foldl _ x), hacc, hseed⟩

/-- Settles O44: the CK.SEED between the two payloads writes the other register. -/
theorem checksumContinues : Obligations.ChecksumContinues := by
  refine ⟨ck_append, fun n s t h x y d u hrun hlog hno htokens => ?_⟩
  have hmove := cksMoves_of_run hrun hlog hno
  rw [CksMoves, htokens, ← List.cons_append, ckRun_append, ckRun_init_data, ckRun_cons, ckRow_seed, ckRun_data,
    ← ck_append] at hmove
  obtain ⟨hacc, rfl⟩ := Prod.mk.inj hmove
  exact ⟨hacc, rfl, fun _ => rfl⟩

end Sys2Proof.Machine
end

section
/-! ### What is raised and what stops the machine (60_exceptions.md R150, R151, R153) -/

namespace Sys2Proof.Machine

/-! #### The symbols that raise a framing error (R150, R151, R153) -/

/-- The byte whose row of `RX_ESC` pushes `ERR(0x02)` is classified RX.BADESC. -/
theorem classify_esc_of_decRow_badEsc {w : Byte} {v : RxState}
    (h : Codec.decRow .esc w = (some (errTok 0x02#8), v)) : classify .esc w = .rxBadEsc w := by
  simp only [Codec.decRow] at h
  split_ifs at h with hescDelim hescEsc hdelim
  · simp [(errTok_ne_dataTok _ _).symm] at h
  · simp [(errTok_ne_dataTok _ _).symm] at h
  · exact absurd (Prod.mk.inj h).1 (by decide)
  · simp only [classify, if_neg hescDelim, if_neg hescEsc, if_neg hdelim]

/-- A row of R113 that pushes an `ERR` token is RX.TRUNC's or RX.BADESC's, with that symbol's code. -/
theorem classify_of_decRow_err {st v : RxState} {w c : Byte} (h : Codec.decRow st w = (some (errTok c), v)) :
    (classify st w = .rxTrunc ∧ c = 0x01#8) ∨ (classify st w = .rxBadEsc w ∧ c = 0x02#8) := by
  have code {d : Byte} (hd : errTok c = errTok d) : c = d := by simpa using congrArg tokData hd
  rcases terminator_rows h (isTerminator_errTok c) with ⟨-, -, heof, -⟩ | ⟨rfl, rfl, htrunc, -⟩ | ⟨rfl, hbad, -⟩
  · exact absurd (congrArg tokKind heof) (by simp)
  · exact .inl ⟨rfl, code htrunc⟩
  · exact .inr ⟨classify_esc_of_decRow_badEsc (hbad ▸ h), code hbad⟩

/-- An instruction that appends a token to `rx_q` is the symbol of a byte whose row of R113 pushes that token: ENC and
CKS leave `rx_q`, a held transfer leaves everything, and a delivery shortens `rx_q`. -/
theorem Effect.rx_of_append {s t : State} {i : Instr} {u : Token} (h : Effect s i t)
    (happ : t.rxQ.items = s.rxQ.items ++ [u]) :
    ∃ w, i = classify s.rxState w ∧ (Codec.decRow s.rxState w).1 = some u := by
  cases h with
  | held | tx | ck => simp at happ
  | rx w hfree => exact ⟨w, rfl, by simpa using happ⟩
  | deliver => exact absurd (congrArg List.length happ) (by simp)

/-- Settles O27: what is appended is the token of a row of R113, and two rows push an `ERR` token. -/
theorem onlyTwoSymbolsRaise : Obligations.OnlyTwoSymbolsRaise := by
  intro i s t c hexec happ
  obtain ⟨w, rfl, hrow⟩ := (effect_of_exec i s t hexec).rx_of_append happ
  rcases classify_of_decRow_err (c := c) (Prod.ext hrow rfl) with ⟨htrunc, hc⟩ | ⟨hbad, hc⟩
  · exact .inl ⟨htrunc, hc⟩
  · exact .inr ⟨⟨w, hbad⟩, hc⟩

/-! #### No turn is stopped (R153, R62, R176) -/

/-- The instruction a turn transfers runs to a next state: its port is ready, and it is the class of its own datum, so
`exec` neither holds nor refuses it. -/
theorem exists_exec_of_fetch {e : Event} {s s' : State} {i : Instr} (hf : fetch e s = some (i, s')) :
    ∃ t, exec i s' = .next t := by
  rcases fetch_cases e s s' i hf with ⟨u, more, -, -, hfree, rfl, rfl⟩ | ⟨w, more, -, -, hfree, rfl, rfl⟩ |
    ⟨u, more, -, -, rfl, rfl⟩ | ⟨w, ws, -, -, hfree, rfl, rfl⟩ | ⟨u, us, -, hq, hd, rfl⟩
  · exact ⟨_, exec_decodeTxIn_ready u (s.takeTxIn u more) hfree⟩
  · exact ⟨_, exec_classify_ready w (s.takeRxIn w more) hfree⟩
  · exact ⟨_, exec_decodeCkIn u (s.takeCkIn u more)⟩
  · have hexec := exec_classify_ready w (s.popTx.record (.rxIn w)) (by simpa using hfree)
    rw [State.record_rxState, State.popTx_rxState] at hexec
    exact ⟨_, hexec⟩
  · rw [exec_of_rxOut i _ (portOf_of_decodeRxOut u i hd)]
    exact ⟨_, onRxOut_cons i _ u us hq hd⟩

/-- Settles O50, by the turn at the head of the schedule: none, one that transfers an instruction, one that transfers
none. -/
theorem stepNeverStops : Obligations.StepNeverStops := by
  intro s
  cases hs : s.env.sched with
  | nil => exact ⟨s, step_nil s hs⟩
  | cons e rest =>
    cases hf : fetch e (s.setSched rest) with
    | none => exact ⟨_, step_none s e rest hs hf⟩
    | some r =>
      obtain ⟨i, s'⟩ := r
      rw [step_some s e rest i s' hs hf]
      exact exists_exec_of_fetch hf

end Sys2Proof.Machine
end

section
/-! ### Reset edges, and a decoder out of phase (70_reset_and_hazards.md R170, R180) -/

namespace Sys2Proof.Machine

/-! #### A decoder out of phase (R180) -/

/-- The closing delimiter of the open frame and a body behind it: one EOF, and the body is junk (R102, R103). -/
theorem decRun_close_body (x : List Byte) :
    Codec.decRun .frame ([Config.delim] ++ Codec.body x) = ([eofTok], .idle) := by
  have hjunk : Config.delim ∉ Codec.body x := List.count_eq_zero.mp (count_delim_body x)
  rw [decRun_append_of_eq (ts := [eofTok]) (u := .idle) rfl, decRun_discarded (.inl rfl) hjunk]; rfl

/-- An encoding that finds a frame open closes it, is discarded, and leaves a frame open. -/
theorem decRun_frame_encode (x : List Byte) : Codec.decRun .frame (Codec.encode x) = ([eofTok], .frame) := by
  rw [Codec.encode, decRun_append_of_eq (decRun_close_body x)]; rfl

/-- Settles O38, by induction on the list of payloads: every encoding leaves the phase as it found it. -/
theorem phaseStaysInverted : Obligations.PhaseStaysInverted := by
  intro xs
  induction xs with
  | nil => rfl
  | cons x xs ih => rw [List.flatMap_cons, decRun_append_of_eq (decRun_frame_encode x), ih]; rfl

/-! #### The reset edge (R170) -/

/-- A turn that is a reset edge transfers nothing: it resets the units and is recorded. -/
theorem step_reset (s : State) (rest : List Event) (h : s.env.sched = .reset :: rest) :
    step s = .next ((s.setSched rest).resetEdge.record .reset) :=
  step_none s _ rest h rfl

/-- Settles O2: the edge's state is the one written out, and `rst` masks the five signals. -/
theorem resetEdgeSetsEveryItem : Obligations.ResetEdgeSetsEveryItem :=
  ⟨fun s rest h => step_reset s rest h,
    fun s => ⟨s.outputs_true_txInReady, s.outputs_true_rxInReady, s.outputs_true_ckInReady, s.outputs_true_txOutValid,
      s.outputs_true_rxOutValid⟩⟩

end Sys2Proof.Machine
end

section
/-! ### What `exec` refuses, a delivery, and a turn of the wire (log entries 6, 8 and 13) -/

namespace Sys2Proof.Machine

/-! #### The rows that `exec` refuses (R62, R112) -/

/-- The datum on the port of `i` cannot be `i`: `rx_in` is ready and `rx_state` makes no byte that symbol (R62), or the
head of `rx_q` is another token (R112). -/
def State.Foreign (s : State) (i : Instr) : Prop :=
  (portOf i = .rxIn ∧ 1 ≤ s.rxQ.free ∧ ∀ w, classify s.rxState w ≠ i) ∨
  (portOf i = .rxOut ∧ ∃ t ts, s.rxQ.items = t :: ts ∧ decodeRxOut t ≠ .instr i)

/-- A ready `rx_in` refuses a symbol that its byte is not. -/
theorem onRxIn_refused (i : Instr) (w : Byte) (s after : State) (hfree : 1 ≤ s.rxQ.free)
    (hc : classify s.rxState w ≠ i) : onRxIn i w s after = .refused .notThatSymbol := by
  rw [onRxIn, if_pos (s.rxInReady_iff.mpr hfree), if_neg hc]

/-- The delivery of a token that is not the head of `rx_q` is refused. -/
theorem onRxOut_refused (i : Instr) (s : State) (t : Token) (ts : List Token) (hq : s.rxQ.items = t :: ts)
    (hd : decodeRxOut t ≠ .instr i) : onRxOut i s = .refused .notThatSymbol := by
  simp [onRxOut, hq, hd]

theorem exec_of_foreign (i : Instr) (s : State) (h : s.Foreign i) : exec i s = .refused .notThatSymbol := by
  rcases h with ⟨hp, hfree, hno⟩ | ⟨hp, t, ts, hq, hd⟩
  · obtain ⟨w, after, -, he⟩ := exec_of_rxIn i s hp
    rw [he, onRxIn_refused i w s after hfree (hno w)]
  · rw [exec_of_rxOut i s hp, onRxOut_refused i s t ts hq hd]

/-- Every other row has a next state: ENC and CKS take any token, and DEC is held, has nothing to deliver, or finds on
the port the row it is asked for. -/
theorem exists_next_of_not_foreign (i : Instr) (s : State) (h : ¬ s.Foreign i) : ∃ t, exec i s = .next t := by
  cases hp : portOf i with
  | txIn =>
    obtain ⟨after, he⟩ := exec_of_txIn i s hp
    rw [he]
    rcases Nat.lt_or_ge s.txQ.free 3 with hheld | hfree
    · exact ⟨_, onTxIn_held s after hheld⟩
    · exact ⟨_, onTxIn_ready s after hfree⟩
  | rxIn =>
    rcases Nat.eq_zero_or_pos s.rxQ.free with hheld | hfree
    · exact ⟨s, exec_rxIn_held i s hp hheld⟩
    · obtain ⟨w, rfl⟩ : ∃ w, classify s.rxState w = i := by
        by_contra hno
        exact h (.inl ⟨hp, hfree, not_exists.mp hno⟩)
      exact ⟨_, exec_classify_ready w s hfree⟩
  | ckIn => exact exec_of_ckIn i s hp
  | rxOut =>
    rw [exec_of_rxOut i s hp]
    cases hq : s.rxQ.items with
    | nil => exact ⟨s, onRxOut_nil i s hq⟩
    | cons t ts =>
      have hd : decodeRxOut t = .instr i := by
        by_contra hd
        exact h (.inr ⟨hp, t, ts, hq, hd⟩)
      exact ⟨_, onRxOut_cons i s t ts hq hd⟩
  | txOut => exact absurd hp (portOf_ne_txOut i)

/-- Settles O23, by whether the datum on the port can be the row. -/
theorem onlyForeignSymbolsRefused : Obligations.OnlyForeignSymbolsRefused := by
  intro i s
  change ((∃ r, exec i s = .refused r) ↔ s.Foreign i) ∧ _
  by_cases h : s.Foreign i
  · simp [exec_of_foreign i s h, h]
  · obtain ⟨t, ht⟩ := exists_next_of_not_foreign i s h
    simp [ht, h]

/-! #### A delivery (R69, R112) -/

/-- `exec` of the row that the head of `rx_q` is read as delivers the head. -/
theorem exec_of_head {i : Instr} {t : Token} (hd : decodeRxOut t = .instr i) (s : State) (ts : List Token)
    (hq : s.rxQ.items = t :: ts) :
    exec i s = .next { s with
      rxQ := ⟨s.rxQ.cap, ts⟩, env := { s.env with log := s.env.log ++ [.rxOut t] } } := by
  rw [exec_of_rxOut i s (portOf_of_decodeRxOut t i hd), onRxOut_cons i s t ts hq hd, s.popRx_cons t ts hq]

/-- Settles O25: each of the four tokens is read as its row. -/
theorem deliveredTokenResults : Obligations.DeliveredTokenResults :=
  ⟨fun b => exec_of_head (decodeRxOut_dataTok b), exec_of_head decodeRxOut_eofTok, exec_of_head decodeRxOut_errTrunc,
    exec_of_head decodeRxOut_errBadEsc,
    fun i s hp hq => (exec_of_rxOut i s hp).trans (onRxOut_nil i s hq)⟩

/-! #### A turn of the perfect wire (R118) -/

/-- A turn of the wire while a token is free pops the head of `tx_q` and takes it by its row of R113. -/
theorem step_wire_ready (s : State) (rest : List Event) (w : Byte) (ws : List Byte)
    (hs : s.env.sched = .wire :: rest) (hq : s.txQ.items = w :: ws) (hfree : 1 ≤ s.rxQ.free) :
    step s = .next (((s.setSched rest).popTx.record (.rxIn w)).acceptRx w) := by
  have hexec := exec_classify_ready w ((s.setSched rest).popTx.record (.rxIn w)) (by simpa using hfree)
  rw [State.record_rxState, State.popTx_rxState] at hexec
  rw [step_some s _ rest _ _ hs (fetch_wire_ready (s.setSched rest) w ws hq hfree), hexec]

/-- A turn of the wire while no token is free uses up the turn and nothing else. -/
theorem step_wire_held (s : State) (rest : List Event) (hs : s.env.sched = .wire :: rest) (hheld : s.rxQ.free = 0) :
    step s = .next (s.setSched rest) :=
  step_none s _ rest hs (fetch_wire_held (s.setSched rest) hheld)

/-- Settles O31, by whether `rx_q` has room for the byte's token. -/
theorem wireTurnIsPopAndSymbol : Obligations.WireTurnIsPopAndSymbol := by
  intro s rest w ws hs hq
  refine ⟨fun hfree => ?_, step_wire_held s rest hs⟩
  have hlog : s.env.log ++ [.txOut w] ++ [.rxIn w] = s.env.log ++ [.txOut w, .rxIn w] := List.append_assoc ..
  rw [step_wire_ready s rest w ws hs hq hfree, (s.setSched rest).popTx_cons w ws hq, ← hlog]
  rfl

end Sys2Proof.Machine
end
